-- ==== Sys2Proof/Word.lean ====
section
/-! DEFINITION. The word types of the paging block (spec/00_scope.md rule R2 and section 3, spec/10_state.md rule R25). -/

namespace Sys2Proof

/-- One byte of the target's memory. -/
abbrev Byte := BitVec 8

/-- A 64-bit value: a page-table entry, an operand bus, a table base (R2, R71). -/
abbrev Word := BitVec 64

/-- The flag set of an entry, its bits 9..0 (R60). -/
abbrev FlagSet := BitVec 10

/-- A physical page number (R2). -/
abbrev Ppn := BitVec 44

end Sys2Proof
end

