-- ==== Sys2Proof/Syntax.lean ====
section
/-! DEFINITION. The commands of the block, as presented (a word and four buses) and as decoded
(spec/30_encoding.md rules R70 to R75, R86). -/

namespace Sys2Proof

/-- The level of a table, root = 0 (spec/00_scope.md, glossary "Level"; spec/10_state.md rule R23:
values 0, 1, 2 only). -/
inductive Level where
  | l0
  | l1
  | l2
deriving DecidableEq, Repr, Inhabited

/-- The number of a level. -/
def Level.toNat : Level → Nat
  | .l0 => 0
  | .l1 => 1
  | .l2 => 2

/-- The level below, where there is one: level 2 has none (spec/41_translator.md rule R114). -/
def Level.next? : Level → Option Level
  | .l0 => some .l1
  | .l1 => some .l2
  | .l2 => none

/-- A command as it is presented: the command word and the four operand buses (R71). -/
structure Request where
  word : Byte
  a : Word
  b : Word
  c : Word
  d : Word
deriving DecidableEq, Repr

/-- Why a command word spells no command (R73). -/
inductive NoCommand where
  /-- Bits 7..6 are not zero. -/
  | reservedBits
  /-- A DUMP word with L = 3. -/
  | levelThree
  /-- S or L is not zero outside DUMP. -/
  | strayFields
  /-- OP is 111. -/
  | opcodeSeven
deriving DecidableEq, Repr

/-- The commands, one constructor per row of spec/opcode_table.json, with the operand buses each
uses (R75). DUMP has one row per level; its SHOW_INVALID bit is `si`. -/
inductive Instr where
  | ptedec (raw : Word)
  | vasplit (va : Word)
  | rootdec (ctrl : Word)
  | xlate (root va : Word)
  | cpush (vs ve ps d : Word)
  | cflush
  | dumpL0 (si : Bool) (base voff : Word)
  | dumpL1 (si : Bool) (base voff : Word)
  | dumpL2 (si : Bool) (base voff : Word)
deriving DecidableEq, Repr

/-- The three call forms of the source's command layer, as pseudo-commands (R86). -/
inductive Pseudo where
  | dumpcur (si : Bool)
  | dumpat (si : Bool) (root : Word)
  | xlateat (root va : Word)
deriving DecidableEq, Repr

end Sys2Proof
end

