-- ==== Sys2Proof/Config.lean ====
section
/-! DEFINITION. What an implementation fixes: the scheme constants of spec/00_scope.md rule R2, and the free values, which the spec
leaves open. A free value has no body, so nothing can be proved of what it is. -/

namespace Sys2Proof

/-- `PAGE_SIZE` (R2). -/
def Config.pageSize : Nat := 4096

/-- `ENTRIES`, the entries of one table (R2). -/
def Config.entries : Nat := 512

/-- `ENABLE_MODE`, the one supported translation mode (R2). -/
def Config.enableMode : BitVec 4 := 8

/-- FREE VALUE. What `xl_level` holds after a command's response (10_state R23, R31: no value; log 6). -/
opaque Config.staleLevel : Nat → Level

/-- FREE VALUE. What `xl_table` holds after a command's response (log 6). -/
opaque Config.staleTable : Nat → Word

/-- FREE VALUE. What `xl_va` holds after a command's response (log 6). -/
opaque Config.staleVa : Nat → Word

/-- FREE VALUE. What `dr_show` holds after a command's response (log 6). -/
opaque Config.staleShow : Nat → Bool

/-- FREE VALUE. The answer to a read while the target is changing: any word, or a failure, under no law
(70_reset_and_hazards R203; log 12). -/
opaque Config.draw : Nat → Option Word

/-- FREE VALUE. What the accessor gives for the part of an entry that lies at or above address 2^64, where no byte
of memory exists. DESIGN CHOICE (log 11): one value for each address, the same at all times. -/
opaque Config.byteBeyondTop : Nat → Byte

end Sys2Proof
end

