-- ==== Sys2Proof/Machine/State.lean ====
section
/-! DEFINITION. The state of the machine: the block's registers (spec/10_state.md), what the spec names outside the block and
the block reads or appends to (the target, the control value, the event output, the responses), and the schedule of what the
caller and the target do. -/

namespace Sys2Proof.Machine

/-- `blk.phase` (10_state R21). -/
inductive Phase where
  | idle
  | xwalk
  | drun
deriving DecidableEq, Repr

/-- The kind of a page-table entry (40_extractor R91). -/
inductive Kind where
  | invalid
  | leaf
  | directory
deriving DecidableEq, Repr

/-- A response's status (30_encoding R77). -/
inductive Status where
  | ok
  | unmapped
  | malformed
  | hostMemoryError
  | unsupportedMode
deriving DecidableEq, Repr

/-- A response (30_encoding R76). Result fields are exact unsigned numbers: 64 bits each, but for `r0` of a
HOST_MEMORY_ERROR, which may reach 2^64 (log 21). A field that a command does not define is 0. -/
structure Response where
  status : Status
  e : Bool := false
  r0 : Nat := 0
  r1 : Nat := 0
  r2 : Nat := 0
  r3 : Nat := 0
deriving DecidableEq, Repr

/-- A region, and equally a leaf tuple (30_encoding R65, 10_state R25): virtual start, virtual end (exclusive),
physical start, and the shared flag set. The three addresses are exact numbers (log 21). -/
structure Region where
  vs : Nat
  ve : Nat
  ps : Nat
  fl : FlagSet
deriving DecidableEq, Repr

/-- An event record (30_encoding R80). -/
inductive Event where
  | dir (level : Level) (i : Nat) (vs : Nat) (child : Nat)
  | region (level : Level) (vs ve ps : Nat) (fl : FlagSet)
  | invalid (level : Level) (i : Nat) (vs : Nat) (raw : Word)
  | malformed (level : Level) (i : Nat) (vs : Nat) (raw : Word)
deriving DecidableEq, Repr

/-- A frame of the scan stack (10_state R26): one table, read whole, and the scan's place in it. -/
structure Frame where
  base : Word
  level : Level
  voff : Nat
  tbl : List Word
  idx : Nat
  coal : Option Region
deriving DecidableEq, Repr

/-- A table that `enterTable` is reading, entry by entry (43_dump R153; log 15): `got` holds the entries
read so far, in ascending index. -/
structure Loading where
  base : Word
  level : Level
  voff : Nat
  got : List Word
deriving DecidableEq, Repr

/-- A half-open range of physical addresses, `lo ≤ pa < hi`. -/
structure Range where
  lo : Nat
  hi : Nat
deriving DecidableEq, Repr

/-- The order in which the accessor builds an entry from the target's bytes: `MEM_BYTE_ORDER`, OPEN
(20_memory R47, D8; log 10). -/
inductive ByteOrder where
  | little
  | big
deriving DecidableEq, Repr

/-- The target's memory: (address, byte) pairs in one canonical form (`Memory.wf`, log 8). -/
abbrev Memory := List Host.Cell

/-- One thing that the outside does (log 2). -/
inductive Input where
  /-- Nothing is presented for one step. -/
  | quiet
  /-- The caller waits for the response: it presents nothing until the block is idle (70 R205). -/
  | awaitIdle
  /-- A command is presented, and stays presented until the block accepts it (30_encoding R71, 70 R205). -/
  | command (r : Request)
  /-- The caller uses one of the three call forms (30_encoding R86, log 19). -/
  | pseudo (p : Pseudo)
  /-- The second half of DUMPCUR: the caller looks at ROOTDEC's response (R86, log 19). -/
  | dumpcurBranch (si : Bool)
  /-- Reset is asserted (70 R200). -/
  | reset
  /-- The target writes bytes of its own memory (20_memory R53). -/
  | targetStore (cells : List (Word × Byte))
  /-- The set of addresses the accessor can read becomes this one (20_memory R53). -/
  | targetAccess (ranges : List Range)
  /-- The target writes its control register (10_state R29). -/
  | ctrlWrite (v : Word)
deriving DecidableEq, Repr

/-- Why a step stops. Every error the spec describes is a response (60_exceptions R180), not a stop. -/
inductive Fault where
  /-- Raised by the scan step alone, in phase DRUN with neither a frame nor a table being read. 10_state R26 describes no such state and
  no run reaches one. SAFE: the machine stops where the spec says nothing (log 16). -/
  | scanWithoutFrame
deriving DecidableEq, Repr

/-- Why there is no meaning for what is presented. -/
inductive Refusal where
  /-- Raised by `exec` alone, for a command that has no meaning yet. SAFE. -/
  | notModelled (mnemonic : String)
  /-- Raised by `step` when the presented word spells no command, with the reason: 30_encoding R73 says that a model refuses it.
  SAFE. -/
  | noCommand (word : Byte) (why : NoCommand)
deriving DecidableEq, Repr

/-- The whole state. INVENTORY.md lists each field with its rule and reset value. -/
structure State where
  /-- `blk.phase`, 10_state R21. -/
  phase : Phase
  /-- `xl_level`, 10_state R23. -/
  xlLevel : Level
  /-- `xl_table`, 10_state R23. -/
  xlTable : Word
  /-- `xl_va`, 10_state R23. -/
  xlVa : Word
  /-- `co_pending`, 10_state R25. -/
  coPending : Option Region
  /-- `dr_show`, 10_state R26 and R30. -/
  drShow : Bool
  /-- `dr_stack`, the top frame first, 10_state R26. -/
  drStack : List Frame
  /-- The table being read, 43_dump R153 (log 15). -/
  drLoad : Option Loading
  /-- `MEM`, byte by byte, 20_memory R41 and R47 (log 8). -/
  mem : Memory
  /-- `ACCESSIBLE`, 20_memory R41 (log 9). -/
  accessible : List Range
  /-- `MEM_BYTE_ORDER`, 20_memory R47 (log 10). -/
  byteOrder : ByteOrder
  /-- The control value, outside the block, 10_state R29 (log 13). -/
  ctrl : Word
  /-- What the outside does, first entry first (log 2). -/
  inputs : List Input
  /-- The addresses requested of the accessor, oldest first, 20_memory R40 (log 14). -/
  reads : List Nat
  /-- The event output, oldest first, 10_state R27 (log 14). -/
  events : List Event
  /-- The responses delivered, oldest first, 30_encoding R76 (log 14). -/
  responses : List Response
  /-- The target changed during the running command, 70 R203 (log 12). -/
  disturbed : Bool
  /-- The model's own counter for free values (log 7). -/
  freeCount : Nat
deriving DecidableEq, Repr

/-- The machine right after reset (10_state R33, 70 R200). Where the spec gives no value, the log names it
(logs 4, 5, 7, 8, 9, 10, 13). -/
def State.reset : State where
  phase := .idle
  xlLevel := .l0
  xlTable := 0
  xlVa := 0
  coPending := none
  drShow := false
  drStack := []
  drLoad := none
  mem := []
  accessible := []
  byteOrder := .little
  ctrl := 0
  inputs := []
  reads := []
  events := []
  responses := []
  disturbed := false
  freeCount := 0

end Sys2Proof.Machine
end

