-- ==== Sys2Proof/Machine/Flags.lean ====
section
/-! DEFINITION. The flag bits of a page-table entry and its classification (spec/40_extractor.md rules R90, R91;
spec/30_encoding.md rules R60 to R62). The block has no condition codes (spec/10_state.md rule R28). -/

namespace Sys2Proof.Machine

/-- `flags(raw) = raw[9:0]` (R90). -/
def pteFlags (raw : Word) : FlagSet := raw.extractLsb' 0 10

/-- `V(raw)`, bit 0 (R90). -/
def pteV (raw : Word) : Bool := raw.getLsbD 0
/-- `R(raw)`, bit 1 (R90). -/
def pteR (raw : Word) : Bool := raw.getLsbD 1
/-- `W(raw)`, bit 2 (R90). -/
def pteW (raw : Word) : Bool := raw.getLsbD 2
/-- `X(raw)`, bit 3 (R90). -/
def pteX (raw : Word) : Bool := raw.getLsbD 3
/-- `U(raw)`, bit 4 (R90): data to the block. -/
def pteU (raw : Word) : Bool := raw.getLsbD 4
/-- `G(raw)`, bit 5 (R90): data to the block. -/
def pteG (raw : Word) : Bool := raw.getLsbD 5
/-- `A(raw)`, bit 6 (R90): data to the block. -/
def pteA (raw : Word) : Bool := raw.getLsbD 6
/-- `D(raw)`, bit 7 (R90): data to the block. -/
def pteD (raw : Word) : Bool := raw.getLsbD 7
/-- `RSW(raw) = raw[9:8]` (R90): data to the block. -/
def pteRsw (raw : Word) : BitVec 2 := raw.extractLsb' 8 2

/-- The kind of an entry (R91): it depends on bits 3..0 alone. -/
def pteKind (raw : Word) : Kind :=
  if pteV raw = false then .invalid
  else if (pteR raw || pteW raw || pteX raw) = true then .leaf
  else .directory

/-- The kind code of a response (30_encoding R61). -/
def kindCode : Kind → Nat
  | .invalid => 0
  | .leaf => 1
  | .directory => 2

/-- The status code of a response (30_encoding R77). -/
def statusCode : Status → Nat
  | .ok => 0
  | .unmapped => 1
  | .malformed => 2
  | .hostMemoryError => 3
  | .unsupportedMode => 4

/-- `process(raw)` of 43_dump R152: by default the Valid bit, with SHOW_INVALID any entry that is not 0. -/
def processed (si : Bool) (raw : Word) : Bool :=
  if si = false then pteV raw else raw != 0

end Sys2Proof.Machine
end

