-- ==== Sys2Proof/Machine/Operands.lean ====
section
/-! DEFINITION. The fields and addresses the commands form from their operands: spec/30_encoding.md rule R64 lists them all. Address
arithmetic is exact (spec/00_scope.md rule R8). -/

namespace Sys2Proof.Machine

/-- `ppn(raw) = raw[53:10]` (40_extractor R90). -/
def ptePpn (raw : Word) : Ppn := raw.extractLsb' 10 44

/-- The physical address of a page number, `ppn * PAGE_SIZE` (00_scope R10). -/
def physOfPpn (ppn : Ppn) : Nat := ppn.toNat * Config.pageSize

/-- `offset(va) = va[11:0]` (40_extractor R92). -/
def vaOffset (va : Word) : BitVec 12 := va.extractLsb' 0 12

/-- `vpn(va, 0) = va[20:12]` (R92). -/
def vpn0 (va : Word) : BitVec 9 := va.extractLsb' 12 9

/-- `vpn(va, 1) = va[29:21]` (R92). -/
def vpn1 (va : Word) : BitVec 9 := va.extractLsb' 21 9

/-- `vpn(va, 2) = va[38:30]` (R92). -/
def vpn2 (va : Word) : BitVec 9 := va.extractLsb' 30 9

/-- `index(va, L) = vpn(va, 2 - L)` (R92). -/
def vaIndex (va : Word) : Level → BitVec 9
  | .l0 => vpn2 va
  | .l1 => vpn1 va
  | .l2 => vpn0 va

/-- `rootPPN(ctrl) = ctrl[43:0]` (R95). -/
def ctrlRootPpn (ctrl : Word) : Ppn := ctrl.extractLsb' 0 44

/-- `asid(ctrl) = ctrl[59:44]` (R95). -/
def ctrlAsid (ctrl : Word) : BitVec 16 := ctrl.extractLsb' 44 16

/-- `mode(ctrl) = ctrl[63:60]` (R95). -/
def ctrlMode (ctrl : Word) : BitVec 4 := ctrl.extractLsb' 60 4

/-- `rootAddr(ctrl) = rootPPN(ctrl) * 4096` (R95). -/
def ctrlRootAddr (ctrl : Word) : Nat := physOfPpn (ctrlRootPpn ctrl)

/-- `enabled(ctrl)`: the mode is 8 (R95). -/
def ctrlEnabled (ctrl : Word) : Bool := ctrlMode ctrl == Config.enableMode

/-- `span(L) = PAGE_SIZE * 512^(2-L)` (00_scope R9). -/
def span (l : Level) : Nat := Config.pageSize * Config.entries ^ (2 - l.toNat)

/-- The address of entry `i` of the table at `base` (20_memory R45). -/
def entryAddr (base : Word) (i : Nat) : Nat := base.toNat + 8 * i

/-- The virtual start of entry `i` of a table whose entry 0 is at `voff` (43_dump R154). -/
def entryStart (voff : Nat) (l : Level) (i : Nat) : Nat := voff + i * span l

/-- The leaf tuple of entry `i` (43_dump R154, R155). -/
def leafTuple (voff : Nat) (l : Level) (i : Nat) (raw : Word) : Region where
  vs := entryStart voff l i
  ve := entryStart voff l i + span l
  ps := physOfPpn (ptePpn raw)
  fl := pteFlags raw

/-- CPUSH's flag operand, `D[9:0]` (42_coalescer R132). -/
def flOperand (d : Word) : FlagSet := d.extractLsb' 0 10

/-- CPUSH's leaf tuple from its four buses (30_encoding R75). -/
def pushTuple (vs ve ps d : Word) : Region where
  vs := vs.toNat
  ve := ve.toNat
  ps := ps.toNat
  fl := flOperand d

/-- The base register of the table a Directory entry points to, `ppn * 4096` (41_translator R113,
43_dump R156); a page number has 44 bits, so 64 bits hold it exactly. -/
def childBase (raw : Word) : Word := BitVec.ofNat 64 (physOfPpn (ptePpn raw))

/-- The physical address of a Leaf found at any level: the 12-bit offset alone is added (41_translator R113). -/
def leafPhys (raw va : Word) : Nat := physOfPpn (ptePpn raw) + (vaOffset va).toNat

end Sys2Proof.Machine
end

