-- ==== Sys2Proof/Machine/Ops.lean ====
section
/-! DEFINITION. The named operations: the target's memory and `ReadEntry` (spec/20_memory.md), responding and emitting
(spec/00_scope.md rule R11), ending a command with an error (spec/60_exceptions.md rule R182), the coalescer's two functions
(spec/42_coalescer.md rule R130), reset (spec/70_reset_and_hazards.md rule R200). -/

namespace Sys2Proof.Machine

/-! ### The target's memory -/

/-- What an address that is not listed reads as: the notation of 95_test_vectors ("every other address reads 0")
(log 8). -/
def unlistedByte : Byte := 0

/-- The canonical form from a lower bound on: addresses strictly rising, below 2^64, no byte equal to what an unlisted
address reads as. -/
def memCanonicalFrom : Nat → Memory → Bool
  | _, [] => true
  | lo, (a, b) :: m => decide (lo ≤ a) && decide (a < 2 ^ 64) && b != unlistedByte && memCanonicalFrom (a + 1) m

/-- The canonical form of the target's memory (log 8). -/
def Memory.wf (m : Memory) : Bool := memCanonicalFrom 0 m

/-- The listed byte at an address, or what an unlisted one reads as. -/
def memLookup : Memory → Nat → Byte
  | [], _ => unlistedByte
  | (k, b) :: m, a => if k = a then b else memLookup m a

/-- One byte of the target as the accessor sees it; at and above 2^64 there is no byte, and the value is free. DESIGN CHOICE
(log 11): it depends on the address alone, so no store of the target and no later command changes it, where 20_memory R53 would
let it change between commands. -/
def Memory.readByte (m : Memory) (a : Nat) : Byte :=
  if a < 2 ^ 64 then memLookup m a else Config.byteBeyondTop a

/-- Put a byte at an address, keeping the canonical form. -/
def memInsert : Memory → Nat → Byte → Memory
  | [], a, b => if b = unlistedByte then [] else [(a, b)]
  | (k, c) :: m, a, b =>
    if a < k then (if b = unlistedByte then (k, c) :: m else (a, b) :: (k, c) :: m)
    else if a = k then (if b = unlistedByte then m else (a, b) :: m)
    else (k, c) :: memInsert m a b

/-- The target writes one byte of its memory. The block itself writes none (20_memory R44). -/
def Memory.writeByte (m : Memory) (a : Word) (b : Byte) : Memory := memInsert m a.toNat b

/-- The target writes several bytes, in order. -/
def Memory.writeCells (m : Memory) : List (Word × Byte) → Memory
  | [] => m
  | (a, b) :: cells => Memory.writeCells (Memory.writeByte m a b) cells

/-- Eight bytes as one 64-bit value, the first given lowest. -/
def joinBytes (b0 b1 b2 b3 b4 b5 b6 b7 : Byte) : Word :=
  b7 ++ b6 ++ b5 ++ b4 ++ b3 ++ b2 ++ b1 ++ b0

/-- `MEM(pa)`: the entry the accessor builds from the eight bytes at `pa` (20_memory R47, log 10). -/
def Memory.readWord (m : Memory) (order : ByteOrder) (pa : Nat) : Word :=
  let byte := fun i => Memory.readByte m (pa + i)
  match order with
  | .little => joinBytes (byte 0) (byte 1) (byte 2) (byte 3) (byte 4) (byte 5) (byte 6) (byte 7)
  | .big => joinBytes (byte 7) (byte 6) (byte 5) (byte 4) (byte 3) (byte 2) (byte 1) (byte 0)

/-- `pa ∈ ACCESSIBLE` (20_memory R41, R42). -/
def State.canRead (s : State) (pa : Nat) : Bool :=
  s.accessible.any fun r => decide (r.lo ≤ pa) && decide (pa < r.hi)

/-- The accessor's answer to a read while the target holds still (20_memory R41, R42, R43). -/
def State.entryAt (s : State) (pa : Nat) : Option Word :=
  if pa < 2 ^ 64 ∧ s.canRead pa = true then some (Memory.readWord s.mem s.byteOrder pa) else none

/-- A request goes to the accessor (20_memory R40). -/
def noteRead (pa : Nat) (s : State) : State := { s with reads := s.reads ++ [pa] }

/-- A free value is used up (log 7). -/
def useFree (s : State) : State := { s with freeCount := s.freeCount + 1 }

/-- `ReadEntry(pa)` (20_memory R42): the answer, `none` being HostMemoryError, and the state after it. An address
that is not below 2^64 fails with no request (R43). While the target is changing the answer is a draw
(70 R203, log 12). -/
def readEntry (pa : Nat) (s : State) : Option Word × State :=
  if pa < 2 ^ 64 then
    if s.disturbed = true then (Config.draw s.freeCount, useFree (noteRead pa s))
    else (s.entryAt pa, noteRead pa s)
  else (none, s)

/-! ### Responses, events, errors -/

/-- `respond r`: deliver the response and return to IDLE (00_scope R11, 10_state R21). -/
def respond (r : Response) (s : State) : State :=
  { s with phase := .idle, responses := s.responses ++ [r] }

/-- `emit ev`: append a record to the event output (00_scope R11, 10_state R27). -/
def emit (ev : Event) (s : State) : State := { s with events := s.events ++ [ev] }

/-- `emitRegion(L, em)` of 43_dump R161: the record of a region, where one is emitted. -/
def emitRegion (l : Level) (em : Option Region) (s : State) : State :=
  match em with
  | none => s
  | some q => emit (.region l q.vs q.ve q.ps q.fl) s

/-- The sequencing state holds no value once a command has responded, and the scan stack is empty
(10_state R26, R31; 60_exceptions R182 item 4): free values, logs 6 and 7. The command's hold on the target ends with it. -/
def forgetSequencing (s : State) : State :=
  { s with
    xlLevel := Config.staleLevel s.freeCount
    xlTable := Config.staleTable s.freeCount
    xlVa := Config.staleVa s.freeCount
    drShow := Config.staleShow s.freeCount
    drStack := []
    drLoad := none
    disturbed := false
    freeCount := s.freeCount + 1 }

/-- The end of XLATE or DUMP: the response, and nothing of the command persists (10_state R31). -/
def endCommand (r : Response) (s : State) : State := respond r (forgetSequencing s)

/-- `raise HostMemoryError(pa)` (60_exceptions R181, R182): THE one error that aborts a command. The response records the
failing address, the block is IDLE, `co_pending` and the events emitted stay. There is no saved pc, no vector and no handler
(R185), and so no return from an error either: the next command is accepted from IDLE (R186). -/
def raiseHostMemoryError (pa : Nat) (s : State) : State :=
  endCommand { status := .hostMemoryError, r0 := pa } s

/-- Acceptance (10_state R21, 70 R205): a command runs only from IDLE; presented while the block is busy it is held, and
nothing happens to it or by it (log 17). -/
def accept (s : State) (run : State → State) : Host.Outcome State Fault Refusal :=
  match s.phase with
  | .idle => .next (run s)
  | .xwalk => .next s
  | .drun => .next s

/-! ### The coalescer's functions -/

/-- `mergeable(q, t)` (42_coalescer R131), on exact integers: `q.ve - q.vs` may be negative. -/
def mergeable (q t : Region) : Bool :=
  q.ve == t.vs && q.fl == t.fl && (q.ps : Int) + ((q.ve : Int) - (q.vs : Int)) == (t.ps : Int)

/-- `coalPush(p, t)` (42_coalescer R130): the new pending region, and the region emitted. -/
def coalPush (p : Option Region) (t : Region) : Option Region × Option Region :=
  match p with
  | none => (some t, none)
  | some q =>
    if mergeable q t = true then (some { vs := q.vs, ve := t.ve, ps := q.ps, fl := q.fl }, none)
    else (some t, some q)

/-- `coalFlush(p)` (42_coalescer R130). -/
def coalFlush (p : Option Region) : Option Region × Option Region := (none, p)

/-- The response of CPUSH and CFLUSH for what is emitted (42_coalescer R132). -/
def regionResponse (em : Option Region) : Response :=
  match em with
  | none => { status := .ok }
  | some q => { status := .ok, e := true, r0 := q.vs, r1 := q.ve, r2 := q.ps, r3 := q.fl.toNat }

/-! ### Reset -/

/-- Reset is asserted (70 R200, 10_state R33): the block's registers are as after reset, a command in progress is dropped with no
response; what is not the block's own stays (log 20). -/
def resetBlock (s : State) : State :=
  { s with
    phase := .idle
    xlLevel := State.reset.xlLevel
    xlTable := State.reset.xlTable
    xlVa := State.reset.xlVa
    coPending := none
    drShow := State.reset.drShow
    drStack := []
    drLoad := none
    disturbed := false }

end Sys2Proof.Machine
end

