-- ==== Sys2Proof/Machine/Coalescer.lean ====
section
/-! DEFINITION. The standalone coalescer's commands: CPUSH and CFLUSH (spec/42_coalescer.md rules R132, R133). -/

namespace Sys2Proof.Machine

/-- CPUSH's work (R132): push the tuple, and answer with the region it emits, if any. -/
def pushPending (t : Region) (s : State) : State :=
  respond (regionResponse (coalPush s.coPending t).2) { s with coPending := (coalPush s.coPending t).1 }

/-- CFLUSH's work (R133): answer with the pending region, if any, and leave none. -/
def flushPending (s : State) : State :=
  respond (regionResponse (coalFlush s.coPending).2) { s with coPending := (coalFlush s.coPending).1 }

/-- CPUSH (R132): no tuple is checked (R134). -/
def execCpush (vs ve ps d : Word) (s : State) : Host.Outcome State Fault Refusal :=
  accept s (pushPending (pushTuple vs ve ps d))

/-- CFLUSH (R133). -/
def execCflush (s : State) : Host.Outcome State Fault Refusal :=
  accept s flushPending

end Sys2Proof.Machine
end

