-- ==== Sys2Proof/Machine/Extractor.lean ====
section
/-! DEFINITION. The extractor's commands: PTEDEC, VASPLIT, ROOTDEC (spec/40_extractor.md). They change no state but for the
response they deliver (spec/10_state.md rule R24). -/

namespace Sys2Proof.Machine

/-- PTEDEC's response (R93). -/
def ptedecResponse (raw : Word) : Response where
  status := .ok
  r0 := (pteFlags raw).toNat
  r1 := (ptePpn raw).toNat
  r2 := kindCode (pteKind raw)

/-- VASPLIT's response (R94). -/
def vasplitResponse (va : Word) : Response where
  status := .ok
  r0 := (vpn2 va).toNat
  r1 := (vpn1 va).toNat
  r2 := (vpn0 va).toNat
  r3 := (vaOffset va).toNat

/-- ROOTDEC's response (R96): UNSUPPORTED_MODE gives all the fields too (60_exceptions R180). -/
def rootdecResponse (ctrl : Word) : Response where
  status := if ctrlEnabled ctrl = true then .ok else .unsupportedMode
  r0 := ctrlRootAddr ctrl
  r1 := (ctrlAsid ctrl).toNat
  r2 := (ctrlMode ctrl).toNat
  r3 := (ctrlRootPpn ctrl).toNat

/-- PTEDEC (R93). -/
def execPtedec (raw : Word) (s : State) : Host.Outcome State Fault Refusal :=
  accept s (respond (ptedecResponse raw))

/-- VASPLIT (R94). -/
def execVasplit (va : Word) (s : State) : Host.Outcome State Fault Refusal :=
  accept s (respond (vasplitResponse va))

/-- ROOTDEC (R96). -/
def execRootdec (ctrl : Word) (s : State) : Host.Outcome State Fault Refusal :=
  accept s (respond (rootdecResponse ctrl))

end Sys2Proof.Machine
end

