-- ==== Sys2Proof/Machine/Scan.lean ====
section
/-! DEFINITION. The scan sequencer: DUMP's acceptance step, the table reads and the scan steps (spec/43_dump.md rules R150 to
R160). One step per `ReadEntry` and one per table entry (R166, log 1). -/

namespace Sys2Proof.Machine

/-- `enterTable(base, L, voff)` begins (R153): nothing of the table is read yet (log 15). -/
def enterTable (base : Word) (l : Level) (voff : Nat) (s : State) : State :=
  { s with drLoad := some { base := base, level := l, voff := voff, got := [] } }

/-- DUMP's acceptance (R151). -/
def acceptDump (si : Bool) (base : Word) (l : Level) (voff : Word) (s : State) : State :=
  enterTable base l voff.toNat { s with phase := .drun, drShow := si }

/-- DUMP of a level-0 table (R151). -/
def execDumpL0 (si : Bool) (base voff : Word) (s : State) : Host.Outcome State Fault Refusal :=
  accept s (acceptDump si base .l0 voff)

/-- DUMP of a level-1 table (R151). -/
def execDumpL1 (si : Bool) (base voff : Word) (s : State) : Host.Outcome State Fault Refusal :=
  accept s (acceptDump si base .l1 voff)

/-- DUMP of a level-2 table (R151). -/
def execDumpL2 (si : Bool) (base voff : Word) (s : State) : Host.Outcome State Fault Refusal :=
  accept s (acceptDump si base .l2 voff)

/-- One more entry of the table is read; after the 512th the frame is pushed, with an absent coalescer (R153). -/
def storeEntry (ld : Loading) (raw : Word) (s : State) : State :=
  let got := ld.got ++ [raw]
  if got.length < Config.entries then { s with drLoad := some { ld with got := got } }
  else
    { s with
      drLoad := none
      drStack :=
        { base := ld.base, level := ld.level, voff := ld.voff, tbl := got, idx := 0, coal := none } :: s.drStack }

/-- The address of the next entry of a table being read (R153, 20_memory R45). -/
def loadAddr (ld : Loading) : Nat := entryAddr ld.base ld.got.length

/-- One read of a table (R153); a failed read aborts the whole DUMP (R160). -/
def loadStep (ld : Loading) (s : State) : State :=
  match readEntry (loadAddr ld) s with
  | (none, s') => raiseHostMemoryError (loadAddr ld) s'
  | (some raw, s') => storeEntry ld raw s'

/-- The frame goes on to its next entry with this coalescer. -/
def advance (f : Frame) (c : Option Region) : Frame := { f with idx := f.idx + 1, coal := c }

/-- One step over the processed entry `raw` of the top frame `f`, by its kind: R155 (Leaf), R156 and R157 (Directory), R159
(Invalid). -/
def scanEntry (f : Frame) (below : List Frame) (raw : Word) (s : State) : State :=
  let vs := entryStart f.voff f.level f.idx
  match pteKind raw with
  | .leaf =>
    let out := coalPush f.coal (leafTuple f.voff f.level f.idx raw)
    emitRegion f.level out.2 { s with drStack := advance f out.1 :: below }
  | .directory =>
    let out := coalFlush f.coal
    let s := emitRegion f.level out.2 { s with drStack := advance f out.1 :: below }
    match f.level.next? with
    | some l =>
      enterTable (childBase raw) l vs (emit (.dir f.level f.idx vs (physOfPpn (ptePpn raw))) s)
    | none => emit (.malformed f.level f.idx vs raw) s
  | .invalid =>
    let out := coalFlush f.coal
    emit (.invalid f.level f.idx vs raw) (emitRegion f.level out.2 { s with drStack := advance f out.1 :: below })

/-- The end of a table (R158): flush, pop, and respond when the stack is empty. -/
def endTable (f : Frame) (below : List Frame) (s : State) : State :=
  let s := emitRegion f.level (coalFlush f.coal).2 { s with drStack := below }
  match below with
  | [] => endCommand { status := .ok } s
  | _ :: _ => s

/-- One step of the top frame (R158): its next entry, skipped where R152 skips it, or its end. -/
def frameStep (f : Frame) (below : List Frame) (s : State) : State :=
  match f.tbl[f.idx]? with
  | none => endTable f below s
  | some raw =>
    if processed s.drShow raw = true then scanEntry f below raw s
    else { s with drStack := advance f f.coal :: below }

/-- One step of a DUMP in progress. -/
def scanStep (s : State) : Host.Outcome State Fault Refusal :=
  match s.drLoad with
  | some ld => .next (loadStep ld s)
  | none =>
    match s.drStack with
    | f :: below => .next (frameStep f below s)
    | [] => .fault .scanWithoutFrame

end Sys2Proof.Machine
end

