-- ==== Sys2Proof/Machine/Translator.lean ====
section
/-! DEFINITION. The translator: XLATE's acceptance step and the walk step (spec/41_translator.md rules R110 to R114). -/

namespace Sys2Proof.Machine

/-- The registers XLATE's acceptance latches (R111). -/
def latchXlate (root va : Word) (s : State) : State :=
  { s with phase := .xwalk, xlTable := root, xlVa := va, xlLevel := .l0 }

/-- XLATE, the acceptance step (R111): nothing is read and nothing is answered yet. -/
def execXlate (root va : Word) (s : State) : Host.Outcome State Fault Refusal :=
  accept s (latchXlate root va)

/-- What the walk step does with the entry it read (R112): a Directory above level 2 is followed, all else ends the
command; a Directory at level 2 is MALFORMED (R114). -/
def walkEntry (raw : Word) (s : State) : State :=
  match pteKind raw with
  | .invalid => endCommand { status := .unmapped } s
  | .leaf => endCommand { status := .ok, r0 := leafPhys raw s.xlVa, r1 := (pteFlags raw).toNat } s
  | .directory =>
    match s.xlLevel.next? with
    | some l => { s with xlTable := childBase raw, xlLevel := l }
    | none => endCommand { status := .malformed } s

/-- The address the walk step reads (R112). -/
def walkAddr (s : State) : Nat := entryAddr s.xlTable (vaIndex s.xlVa s.xlLevel).toNat

/-- The walk step (R112): exactly one `ReadEntry`. -/
def walkStep (s : State) : State :=
  match readEntry (walkAddr s) s with
  | (none, s') => raiseHostMemoryError (walkAddr s) s'
  | (some raw, s') => walkEntry raw s'

end Sys2Proof.Machine
end

