-- ==== Sys2Proof/Machine/Dispatch.lean ====
section
/-! DEFINITION. The meaning of each command. -/

namespace Sys2Proof.Machine

def exec (i : Instr) (s : State) : Host.Outcome State Fault Refusal :=
  match i with
  | .ptedec raw => Sys2Proof.Machine.execPtedec raw s
  | .vasplit va => Sys2Proof.Machine.execVasplit va s
  | .rootdec ctrl => Sys2Proof.Machine.execRootdec ctrl s
  | .xlate root va => Sys2Proof.Machine.execXlate root va s
  | .cpush vs ve ps d => Sys2Proof.Machine.execCpush vs ve ps d s
  | .cflush => Sys2Proof.Machine.execCflush s
  | .dumpL0 si base voff => Sys2Proof.Machine.execDumpL0 si base voff s
  | .dumpL1 si base voff => Sys2Proof.Machine.execDumpL1 si base voff s
  | .dumpL2 si base voff => Sys2Proof.Machine.execDumpL2 si base voff s

end Sys2Proof.Machine
end

