-- ==== Sys2Proof/WellFormed.lean ====
section
/-! DEFINITION. Which command words are well formed (spec/30_encoding.md rules R72, R73): the four checks a legal
word meets, stated on the word alone and apart from the decoder. Every term of `Instr` is well formed by its type: the level is
its constructor and each bus is a full 64-bit value. -/

namespace Sys2Proof

/-- Bits 7..6 are reserved and must be 0 (R72). -/
def reservedClear (w : Byte) : Bool := w &&& 0xC0 == 0

/-- OP = 111 is reserved (R70). -/
def opcodeAssigned (w : Byte) : Bool := w &&& 0x07 != 0x07

/-- In a DUMP word the level is 0, 1 or 2 (R72). -/
def dumpLevelLegal (w : Byte) : Bool := !(w &&& 0x07 == 0x06 && w &&& 0x30 == 0x30)

/-- Outside DUMP, S and L must be 0 (R72). -/
def fieldsUnusedClear (w : Byte) : Bool := w &&& 0x07 == 0x06 || w &&& 0x38 == 0

/-- A legal command word: all four checks hold (R73). -/
def wellFormedWord (w : Byte) : Bool :=
  reservedClear w && opcodeAssigned w && dumpLevelLegal w && fieldsUnusedClear w

/-- A presented command is well formed when its word is: no bus value is ever checked (R71). -/
def Request.wellFormed (r : Request) : Bool := wellFormedWord r.word

end Sys2Proof
end

