-- ==== Sys2Proof/Decode.lean ====
section
/-! DEFINITION. The command decoder (spec/30_encoding.md rule R74), total on every request and rejecting by name, and after it
the encoder, written from the table of rule R73. -/

namespace Sys2Proof

/-- OP, bits 2..0 of the command word (R72). -/
def opField (w : Byte) : BitVec 3 := w.extractLsb' 0 3

/-- S, bit 3 (R72). -/
def showField (w : Byte) : Bool := w.getLsbD 3

/-- L, bits 5..4 (R72). -/
def levelField (w : Byte) : BitVec 2 := w.extractLsb' 4 2

/-- The reserved bits 7..6 (R72). -/
def reservedField (w : Byte) : BitVec 2 := w.extractLsb' 6 2

/-- The DUMP row a level field selects; L = 3 spells no command (R74). -/
def decodeDump (r : Request) : Except NoCommand Instr :=
  match (levelField r.word).toNat with
  | 0 => .ok (.dumpL0 (showField r.word) r.a r.b)
  | 1 => .ok (.dumpL1 (showField r.word) r.a r.b)
  | 2 => .ok (.dumpL2 (showField r.word) r.a r.b)
  | _ => .error .levelThree

/-- The command an OP other than DUMP's selects; what is left over is OP = 111 (R74). -/
def decodePlain (r : Request) : Except NoCommand Instr :=
  match (opField r.word).toNat with
  | 0 => .ok (.ptedec r.a)
  | 1 => .ok (.vasplit r.a)
  | 2 => .ok (.rootdec r.a)
  | 3 => .ok (.xlate r.a r.b)
  | 4 => .ok (.cpush r.a r.b r.c r.d)
  | 5 => .ok .cflush
  | _ => .error .opcodeSeven

/-- `decodeCmd` of R74, with the buses each command uses (R75); a bus that is not used is ignored (R71). -/
def decode (r : Request) : Except NoCommand Instr :=
  if reservedField r.word ≠ 0 then .error .reservedBits
  else if opField r.word = 0b110#3 then decodeDump r
  else if showField r.word = true ∨ levelField r.word ≠ 0 then .error .strayFields
  else decodePlain r

/-- The bits of a DUMP word that SHOW_INVALID sets (R72). -/
def showBit (si : Bool) : Byte := if si then 0x08 else 0x00

/-- The command word of a command (R73). -/
def encodeWord : Instr → Byte
  | .ptedec _ => 0x00
  | .vasplit _ => 0x01
  | .rootdec _ => 0x02
  | .xlate _ _ => 0x03
  | .cpush _ _ _ _ => 0x04
  | .cflush => 0x05
  | .dumpL0 si _ _ => 0x06 ||| showBit si
  | .dumpL1 si _ _ => 0x16 ||| showBit si
  | .dumpL2 si _ _ => 0x26 ||| showBit si

/-- The word and buses of a command (R73, R75); the buses it does not use carry 0. -/
def encode (i : Instr) : Request :=
  match i with
  | .ptedec raw => ⟨encodeWord i, raw, 0, 0, 0⟩
  | .vasplit va => ⟨encodeWord i, va, 0, 0, 0⟩
  | .rootdec ctrl => ⟨encodeWord i, ctrl, 0, 0, 0⟩
  | .xlate root va => ⟨encodeWord i, root, va, 0, 0⟩
  | .cpush vs ve ps d => ⟨encodeWord i, vs, ve, ps, d⟩
  | .cflush => ⟨encodeWord i, 0, 0, 0, 0⟩
  | .dumpL0 _ base voff => ⟨encodeWord i, base, voff, 0, 0⟩
  | .dumpL1 _ base voff => ⟨encodeWord i, base, voff, 0, 0⟩
  | .dumpL2 _ base voff => ⟨encodeWord i, base, voff, 0, 0⟩

/-- A command given as one number of `nbits` bits: the command word in bits 7..0, then the buses A, B, C and D, each from its
least significant bit; every bit from `nbits` up is 0. -/
def requestOfBits (nbits w : Nat) : Request :=
  let v := w % 2 ^ nbits
  { word := BitVec.ofNat 8 v
    a := BitVec.ofNat 64 (v / 2 ^ 8)
    b := BitVec.ofNat 64 (v / 2 ^ 72)
    c := BitVec.ofNat 64 (v / 2 ^ 136)
    d := BitVec.ofNat 64 (v / 2 ^ 200) }

/-- The command the decoder reads from such a number, where it reads one. -/
def decodeTableWord (nbits w : Nat) : Option Instr :=
  match decode (requestOfBits nbits w) with
  | .ok i => some i
  | .error _ => none

end Sys2Proof
end

