-- ==== Sys2Proof/Machine/Interface.lean ====
section
/-! DEFINITION. The command interface: what one step does with what the outside presents (spec/30_encoding.md rules R71, R86;
spec/70_reset_and_hazards.md rules R200, R203, R205; log 2). -/

namespace Sys2Proof.Machine

/-- The block goes on by itself: a walk step, a scan step, or waiting in IDLE (10_state R21, 70 R201). -/
def progress (s : State) : Host.Outcome State Fault Refusal :=
  match s.phase with
  | .idle => .next s
  | .xwalk => .next (walkStep s)
  | .drun => scanStep s

/-- A command is in progress (10_state R21). -/
def State.busy (s : State) : Bool := s.phase != .idle

/-- The target changes: if a command is in progress, the premise of 20_memory R41 is broken from here to its
response (70 R203, log 12). -/
def targetChange (mem : Memory) (accessible : List Range) (s : State) : State :=
  { s with mem := mem, accessible := accessible, disturbed := s.disturbed || s.busy }

/-- What the caller presents for a pseudo-command (30_encoding R86); DUMPCUR reads the control register now and
looks at ROOTDEC's response next. -/
def expandPseudo (ctrl : Word) : Pseudo → List Input
  | .dumpcur si => [.command (encode (.rootdec ctrl)), .dumpcurBranch si]
  | .dumpat si root => [.command (encode (.dumpL0 si root 0))]
  | .xlateat root va => [.command (encode (.xlate root va))]

/-- DUMPCUR's branch (R86): where ROOTDEC answered OK, DUMP from its `r0`; else the pseudo-command stops with that
status and nothing is read. -/
def dumpcurFollow (si : Bool) : Option Response → List Input
  | none => []
  | some r =>
    match r.status with
    | .ok => [.command (encode (.dumpL0 si (BitVec.ofNat 64 r.r0) 0))]
    | _ => []

/-- What the command interface finds for this step. -/
inductive Fetched where
  /-- A command is accepted; the state has it taken off the interface. -/
  | accepted (i : Instr) (s : State)
  /-- The word presented spells no command (30_encoding R73). -/
  | noCommand (word : Byte) (why : NoCommand)
  /-- No command is accepted in this step; this is what the step does instead. -/
  | settled (o : Host.Outcome State Fault Refusal)

/-- The schedule with its first entry taken off. -/
def setInputs (inputs : List Input) (s : State) : State := { s with inputs := inputs }

/-- A command is presented to an idle block. -/
def fetchCommand (r : Request) (s : State) : Fetched :=
  match decode r with
  | .ok i => .accepted i s
  | .error why => .noCommand r.word why

/-- The first entry of the schedule, and what it makes of this step. What the caller presents is held while the block is busy
(70 R205); reset and the target's changes are not. -/
def fetch (s : State) : Fetched :=
  match s.inputs with
  | [] => .settled (progress s)
  | .quiet :: rest => .settled (progress (setInputs rest s))
  | .reset :: rest => .settled (.next (resetBlock (setInputs rest s)))
  | .targetStore cells :: rest =>
    .settled (.next (targetChange (Memory.writeCells s.mem cells) s.accessible (setInputs rest s)))
  | .targetAccess ranges :: rest => .settled (.next (targetChange s.mem ranges (setInputs rest s)))
  | .ctrlWrite v :: rest => .settled (.next { s with ctrl := v, inputs := rest })
  | .awaitIdle :: rest =>
    if s.busy = true then .settled (progress s) else .settled (.next (setInputs rest s))
  | .command r :: rest =>
    if s.busy = true then .settled (progress s) else fetchCommand r (setInputs rest s)
  | .pseudo p :: rest =>
    if s.busy = true then .settled (progress s)
    else .settled (.next (setInputs (expandPseudo s.ctrl p ++ rest) s))
  | .dumpcurBranch si :: rest =>
    if s.busy = true then .settled (progress s)
    else .settled (.next (setInputs (dumpcurFollow si s.responses.getLast? ++ rest) s))

/-- Present a command to an idle block as the next thing the step finds. A command in progress is abandoned, since
a busy block accepts none (70 R205; log 3). -/
def presentNow (r : Request) (s : State) : State :=
  { s with phase := .idle, drStack := [], drLoad := none, disturbed := false, inputs := .command r :: s.inputs }

end Sys2Proof.Machine
end

