-- ==== Sys2Proof/Machine/Step.lean ====
section
/-! DEFINITION. One step of the machine. -/

namespace Sys2Proof.Machine

/-- One step: the command interface is looked at; an accepted command runs, a word that spells no command is refused (30_encoding
R73), and otherwise the block goes on with what it is doing. -/
def step (s : State) : Host.Outcome State Fault Refusal :=
  match fetch s with
  | .accepted i s' => exec i s'
  | .noCommand word why => .refused (.noCommand word why)
  | .settled o => o

/-- The same state with this command presented, so that the very next step accepts and runs it (log 3). -/
def State.withFetchWord (s : State) (nbits w : Nat) : State := presentNow (requestOfBits nbits w) s

end Sys2Proof.Machine
end

