-- ==== Sys2Proof/Machine/Assembler.lean ====
section
/-! DEFINITION. The assembler syntax and its literals (spec/30_encoding.md rules R85 to R87): a line of characters to what
the caller presents (log 18). -/

namespace Sys2Proof.Machine

/-- The value of a digit in base `base`. -/
def digitValue (base : Nat) (c : Char) : Option Nat :=
  let v :=
    if '0' ≤ c ∧ c ≤ '9' then some (c.toNat - '0'.toNat)
    else if 'a' ≤ c ∧ c ≤ 'f' then some (c.toNat - 'a'.toNat + 10)
    else if 'A' ≤ c ∧ c ≤ 'F' then some (c.toNat - 'A'.toNat + 10)
    else none
  match v with
  | some n => if n < base then some n else none
  | none => none

/-- The value of digits after a part worth `acc`. -/
def digitsValue (base : Nat) : Nat → List Char → Option Nat
  | acc, [] => some acc
  | acc, c :: cs =>
    match digitValue base c with
    | some d => digitsValue base (acc * base + d) cs
    | none => none

/-- A value that must fit the operand's 64 bits (R87). -/
def fitWord (n : Nat) : Option Word := if n < 2 ^ 64 then some (BitVec.ofNat 64 n) else none

/-- A literal, decimal or hexadecimal with a 0x prefix; one that does not fit is a syntax error (R87). -/
def parseLiteral : List Char → Option Word
  | '0' :: 'x' :: c :: cs => (digitsValue 16 0 (c :: cs)).bind fitWord
  | c :: cs => (digitsValue 10 0 (c :: cs)).bind fitWord
  | [] => none

/-- A token of a line. -/
inductive Token where
  | name (cs : List Char)
  | comma
deriving DecidableEq, Repr

/-- End the token being read. -/
def closeToken (cur : List Char) (rest : List Token) : List Token :=
  match cur with
  | [] => rest
  | _ :: _ => .name cur.reverse :: rest

/-- The tokens of a line: names and literals parted by blanks, and commas. `cur` is the token being read, backwards. -/
def tokens : List Char → List Char → List Token
  | cur, [] => closeToken cur []
  | cur, c :: cs =>
    if c = ' ' then closeToken cur (tokens [] cs)
    else if c = ',' then closeToken cur (.comma :: tokens [] cs)
    else tokens (c :: cur) cs

/-- Operands with commas between them. -/
def parseOperands : List Token → Option (List Word)
  | [.name cs] => (parseLiteral cs).map fun v => [v]
  | .name cs :: .comma :: rest =>
    match parseLiteral cs, parseOperands rest with
    | some v, some vs => some (v :: vs)
    | _, _ => none
  | _ => none

/-- A mnemonic is case-insensitive (R85). -/
def lowerCase (cs : List Char) : List Char := cs.map Char.toLower

/-- What a command of R85 encodes, by its mnemonic in lower case and its operands. -/
def assembleCommand (m : List Char) (ops : List Word) : Option Instr :=
  match ops with
  | [] => if m = "cflush".toList then some .cflush else none
  | [a] =>
    if m = "ptedec".toList then some (.ptedec a)
    else if m = "vasplit".toList then some (.vasplit a)
    else if m = "rootdec".toList then some (.rootdec a)
    else none
  | [a, b] =>
    if m = "xlate".toList then some (.xlate a b)
    else if m = "dump.l0".toList then some (.dumpL0 false a b)
    else if m = "dump.l0.i".toList then some (.dumpL0 true a b)
    else if m = "dump.l1".toList then some (.dumpL1 false a b)
    else if m = "dump.l1.i".toList then some (.dumpL1 true a b)
    else if m = "dump.l2".toList then some (.dumpL2 false a b)
    else if m = "dump.l2.i".toList then some (.dumpL2 true a b)
    else none
  | [a, b, c, d] => if m = "cpush".toList then some (.cpush a b c d) else none
  | _ => none

/-- A pseudo-command of R86, by its mnemonic in lower case, whether `.i` is given, and its operands. -/
def assemblePseudo (m : List Char) (si : Bool) (ops : List Word) : Option Pseudo :=
  match ops with
  | [] => if m = "dumpcur".toList then some (.dumpcur si) else none
  | [root] => if m = "dumpat".toList then some (.dumpat si root) else none
  | [root, va] => if m = "xlateat".toList ∧ si = false then some (.xlateat root va) else none
  | _ => none

/-- The operands of a line, which may have none. -/
def lineOperands (ts : List Token) : Option (List Word) :=
  match ts with
  | [] => some []
  | _ :: _ => parseOperands ts

/-- A mnemonic with its `.i` taken off, and whether it had one. -/
def splitShow (m : List Char) : List Char × Bool :=
  match m.reverse with
  | 'i' :: '.' :: rest => (rest.reverse, true)
  | _ => (m, false)

/-- A `.i` that stands alone after the mnemonic, and the tokens after it. DESIGN CHOICE (log 18): in either case, as a joined one,
since R86 does not say. -/
def takeShow : List Token → Option (List Token)
  | .name cs :: rest => if lowerCase cs = ['.', 'i'] then some rest else none
  | _ => none

/-- The pseudo-command of a line; `.i` may be joined to the mnemonic or stand alone after it (R86). DESIGN CHOICE (log 18). -/
def assemblePseudoLine (m : List Char) (rest : List Token) : Option Pseudo :=
  match takeShow rest with
  | some rest' => (lineOperands rest').bind (assemblePseudo m true)
  | none => (lineOperands rest).bind (assemblePseudo (splitShow m).1 (splitShow m).2)

/-- One line of the syntax of R85 and R86: what the caller presents for it, or a syntax error. -/
def assemble (line : List Char) : Option Input :=
  match tokens [] line with
  | .name m :: rest =>
    match (lineOperands rest).bind (assembleCommand (lowerCase m)) with
    | some i => some (.command (encode i))
    | none => (assemblePseudoLine (lowerCase m) rest).map .pseudo
  | _ => none

end Sys2Proof.Machine
end

