-- ==== Sys2Proof/Machine/WholeCommand.lean ====
section
/-! DEFINITION. The whole-command views of the spec: XLATE as one function (spec/41_translator.md rule R115), DUMP as one recursive
procedure (spec/43_dump.md rule R161), a coalescer instance over a whole stream (spec/42_coalescer.md rule R135). The machine does
not run these: statements compare its steps with them. A memory is given as the accessor's answers, `none` being a failure. -/

namespace Sys2Proof.Machine

/-- The request that a read makes of the accessor: none for an address that is not below 2^64 (20_memory R43). -/
def requestFor (pa : Nat) : List Nat := if pa < 2 ^ 64 then [pa] else []

/-! ### XLATE -/

/-- What a whole XLATE shows: its requests, in order, and its response. -/
structure Walk where
  reads : List Nat
  response : Response
deriving DecidableEq, Repr

/-- The levels still to be walked from the table at `table`, as `translate` of R115 takes them. -/
def translateFrom (mem : Nat → Option Word) (va : Word) : List Level → Nat → Walk
  | [], _ => { reads := [], response := { status := .malformed } }
  | l :: ls, table =>
    let pa := table + 8 * (vaIndex va l).toNat
    match mem pa with
    | none => { reads := requestFor pa, response := { status := .hostMemoryError, r0 := pa } }
    | some raw =>
      match pteKind raw with
      | .invalid => { reads := requestFor pa, response := { status := .unmapped } }
      | .leaf =>
        { reads := requestFor pa
          response :=
            { status := .ok
              r0 := (ptePpn raw).toNat * 4096 + (vaOffset va).toNat
              r1 := (pteFlags raw).toNat } }
      | .directory =>
        let below := translateFrom mem va ls ((ptePpn raw).toNat * 4096)
        { reads := requestFor pa ++ below.reads, response := below.response }

/-- `translate(root, va)` (R115). -/
def translate (mem : Nat → Option Word) (root va : Word) : Walk :=
  translateFrom mem va [.l0, .l1, .l2] root.toNat

/-! ### DUMP -/

/-- What a part of a DUMP shows: its requests, its events, and the failing address if a read failed. -/
structure Scan where
  reads : List Nat
  events : List Event
  failed : Option Nat
deriving DecidableEq, Repr

/-- A part that only emits. -/
def scanEmits (events : List Event) : Scan := { reads := [], events := events, failed := none }

/-- One part and then another; a failed read ends the whole (R160). -/
def scanThen (a b : Scan) : Scan :=
  match a.failed with
  | some _ => a
  | none => { reads := a.reads ++ b.reads, events := a.events ++ b.events, failed := b.failed }

/-- `emitRegion` of R161. -/
def regionEvents (l : Level) : Option Region → List Event
  | none => []
  | some q => [.region l q.vs q.ve q.ps q.fl]

/-- The reading of `n` entries of a table from index `i` on, in ascending index (R153): the requests, and the entries or the
failing address. -/
def readTable (mem : Nat → Option Word) (base : Nat) : Nat → Nat → List Nat × Except Nat (List Word)
  | 0, _ => ([], .ok [])
  | n + 1, i =>
    let pa := base + 8 * i
    match mem pa with
    | none => (requestFor pa, .error pa)
    | some raw =>
      let rest := readTable mem base n (i + 1)
      match rest.2 with
      | .ok words => (requestFor pa ++ rest.1, .ok (raw :: words))
      | .error at_ => (requestFor pa ++ rest.1, .error at_)

/-- The loop of `dumpTable` over the entries from index `i` on, with the coalescer `c`; `child` dumps a child table at
a base and a virtual start (R161). -/
def scanEntries (child : Nat → Nat → Scan) (l : Level) (si : Bool) (voff : Nat) :
    List Word → Nat → Option Region → Scan
  | [], _, c => scanEmits (regionEvents l (coalFlush c).2)
  | raw :: words, i, c =>
    let vs := voff + i * span l
    let rest := scanEntries child l si voff words (i + 1)
    if processed si raw = true then
      match pteKind raw with
      | .leaf =>
        let out := coalPush c { vs := vs, ve := vs + span l, ps := (ptePpn raw).toNat * 4096, fl := pteFlags raw }
        scanThen (scanEmits (regionEvents l out.2)) (rest out.1)
      | .directory =>
        let before := regionEvents l (coalFlush c).2
        match l.next? with
        | some _ =>
          let base := (ptePpn raw).toNat * 4096
          scanThen (scanEmits (before ++ [.dir l i vs base])) (scanThen (child base vs) (rest none))
        | none => scanThen (scanEmits (before ++ [.malformed l i vs raw])) (rest none)
      | .invalid =>
        scanThen (scanEmits (regionEvents l (coalFlush c).2 ++ [.invalid l i vs raw])) (rest none)
    else rest c

/-- `dumpTable(base, L, voff, show)` (R161), for the levels from `L` down. -/
def dumpTable (mem : Nat → Option Word) (si : Bool) : List Level → Nat → Nat → Scan
  | [], _, _ => scanEmits []
  | l :: ls, base, voff =>
    let table := readTable mem base Config.entries 0
    match table.2 with
    | .error pa => { reads := table.1, events := [], failed := some pa }
    | .ok words =>
      scanThen { reads := table.1, events := [], failed := none }
        (scanEntries (dumpTable mem si ls) l si voff words 0 none)

/-- A level and those below it. -/
def levelsFrom : Level → List Level
  | .l0 => [.l0, .l1, .l2]
  | .l1 => [.l1, .l2]
  | .l2 => [.l2]

/-- `DUMP(base, voff, L, show)` (R161), but for its response. -/
def dumpWhole (mem : Nat → Option Word) (l : Level) (si : Bool) (base voff : Word) : Scan :=
  dumpTable mem si (levelsFrom l) base.toNat voff.toNat

/-- DUMP's response (R161). -/
def dumpResponse (sc : Scan) : Response :=
  match sc.failed with
  | none => { status := .ok }
  | some pa => { status := .hostMemoryError, r0 := pa }

/-- The DUMP command of a level (30_encoding R85). -/
def dumpInstr (l : Level) (si : Bool) (base voff : Word) : Instr :=
  match l with
  | .l0 => .dumpL0 si base voff
  | .l1 => .dumpL1 si base voff
  | .l2 => .dumpL2 si base voff

/-! ### A coalescer instance -/

/-- The regions an instance emits for a stream of tuples and a flush at its end (R130). -/
def coalRun : List Region → Option Region → List Region
  | [], p => (coalFlush p).2.toList
  | t :: ts, p => (coalPush p t).2.toList ++ coalRun ts (coalPush p t).1

end Sys2Proof.Machine
end

