-- ==== Sys2Proof/Safety.lean ====
section
/-! DEFINITION. What counts as a proper state and a proper use of the block, in the terms the statements use: the shapes
and widths of spec/10_state.md, the values of spec/30_encoding.md rules R76 and R80, and the caller duties of spec/70_reset_and_hazards.md. -/

namespace Sys2Proof.Machine

/-! ### Caller duties -/

/-- The base is that of a page table (70 R206): a multiple of the page size. -/
def alignedBase (base : Word) : Prop := base.toNat % Config.pageSize = 0

/-- A stream of tuples in strictly increasing, non-overlapping virtual order, none of them empty (70 R208). -/
def orderedTuples (ts : List Region) : Prop :=
  (∀ t ∈ ts, t.vs < t.ve) ∧ ts.Pairwise fun a b => a.ve ≤ b.vs

/-- Two tuples in a row that belong together: virtually and physically adjacent, flags identical (42_coalescer R131). -/
def adjacent (a b : Region) : Prop :=
  a.ve = b.vs ∧ a.fl = b.fl ∧ (a.ps : Int) + ((a.ve : Int) - (a.vs : Int)) = (b.ps : Int)

/-! ### Shapes and widths of the state -/

/-- A bound on every virtual address of a scan: a 64-bit start and the whole of a root table's range
(10_state R26, 30_encoding R80: below 2^65). -/
def scanTop : Nat := 2 ^ 64 + 2 ^ 39

/-- A frame as 10_state R26 describes it: 512 entries, idx from 0 to 512, virtual addresses in bounds, and a pending region that ends
at or before the next entry. -/
def frameOk (f : Frame) : Prop :=
  f.tbl.length = Config.entries ∧ f.idx ≤ Config.entries ∧
  f.voff + Config.entries * span f.level ≤ scanTop ∧
  ∀ q, f.coal = some q → q.vs < q.ve ∧ q.ve ≤ entryStart f.voff f.level f.idx ∧ q.ps < 2 ^ 56

/-- A scan stack, the top first: each frame one level below the frame under it, whose coalescer is absent
(10_state R26; 43_dump R156, R160). -/
def stackOk : List Frame → Prop
  | [] => True
  | [f] => frameOk f
  | f :: g :: below => frameOk f ∧ g.level.next? = some f.level ∧ g.coal = none ∧ stackOk (g :: below)

/-- A table being read above a stack (43_dump R153, R160). -/
def loadingOk (ld : Loading) (below : List Frame) : Prop :=
  ld.got.length < Config.entries ∧ ld.voff + Config.entries * span ld.level ≤ scanTop ∧
  ∀ g rest, below = g :: rest → g.level.next? = some ld.level ∧ g.coal = none

/-- The scan sequencer's state in each phase (10_state R26): empty but in DRUN, where a table is being read or a
frame is there to scan. -/
def sequencerOk (s : State) : Prop :=
  match s.phase with
  | .idle => s.drStack = [] ∧ s.drLoad = none ∧ s.disturbed = false
  | .xwalk => s.drStack = [] ∧ s.drLoad = none
  | .drun =>
    stackOk s.drStack ∧ (s.drLoad = none → s.drStack ≠ []) ∧
      ∀ ld, s.drLoad = some ld → loadingOk ld s.drStack

/-- The widths of `co_pending` (10_state R25). -/
def pendingOk (s : State) : Prop :=
  ∀ q, s.coPending = some q → q.vs < 2 ^ 64 ∧ q.ve < 2 ^ 64 ∧ q.ps < 2 ^ 64

/-- The invariant of the machine: the target's memory is canonical, the scan sequencer has the shape of 10_state R26, and
`co_pending` the widths of 10_state R25. -/
def Invariant (s : State) : Prop := Memory.wf s.mem = true ∧ sequencerOk s ∧ pendingOk s

/-- A response as 30_encoding R76 bounds it: 64-bit fields, but for the failing address of HOST_MEMORY_ERROR, below 2^64 + 2^12. -/
def responseOk (r : Response) : Prop :=
  r.r1 < 2 ^ 64 ∧ r.r2 < 2 ^ 64 ∧ r.r3 < 2 ^ 64 ∧
  (r.status = .hostMemoryError → r.r0 < 2 ^ 64 + 2 ^ 12) ∧ (r.status ≠ .hostMemoryError → r.r0 < 2 ^ 64)

/-- An event record as 30_encoding R80 bounds it. -/
def eventOk : Event → Prop
  | .dir l i vs child => l ≠ .l2 ∧ i < 512 ∧ vs < 2 ^ 65 ∧ child < 2 ^ 56 ∧ child % 4096 = 0
  | .region _ vs ve ps _ => vs < ve ∧ ve < 2 ^ 65 ∧ ps < 2 ^ 64
  | .invalid _ i vs _ => i < 512 ∧ vs < 2 ^ 65
  | .malformed l i vs _ => l = .l2 ∧ i < 512 ∧ vs < 2 ^ 65

/-- What has left the block is within the widths the spec gives it: requests are 64-bit addresses (20_memory R43). -/
def outputsOk (s : State) : Prop :=
  (∀ r ∈ s.responses, responseOk r) ∧ (∀ ev ∈ s.events, eventOk ev) ∧ ∀ pa ∈ s.reads, pa < 2 ^ 64

/-! ### The fields a statement says are kept -/

/-- What the target and the caller own is as before (mem, ACCESSIBLE, byte order, control value). -/
def sameTarget (s t : State) : Prop :=
  t.mem = s.mem ∧ t.accessible = s.accessible ∧ t.byteOrder = s.byteOrder ∧ t.ctrl = s.ctrl

/-- The level of the table an event record is about (30_encoding R80). -/
def eventLevel : Event → Level
  | .dir l _ _ _ => l
  | .region l _ _ _ _ => l
  | .invalid l _ _ _ => l
  | .malformed l _ _ _ => l

/-- The virtual start an event record carries (30_encoding R80). -/
def eventStart : Event → Nat
  | .dir _ _ vs _ => vs
  | .region _ vs _ _ _ => vs
  | .invalid _ _ vs _ => vs
  | .malformed _ _ vs _ => vs

/-- The record is a DIR record. -/
def isDir : Event → Bool
  | .dir _ _ _ _ => true
  | .region _ _ _ _ _ => false
  | .invalid _ _ _ _ => false
  | .malformed _ _ _ _ => false

/-! ### Terms of the statements -/

/-- The buses of a request carry the operands of a command, each on the bus of 30_encoding R75. -/
def carriesOperands (i : Instr) (r : Request) : Prop :=
  match i with
  | .ptedec raw => r.a = raw
  | .vasplit va => r.a = va
  | .rootdec ctrl => r.a = ctrl
  | .xlate root va => r.a = root ∧ r.b = va
  | .cpush vs ve ps d => r.a = vs ∧ r.b = ve ∧ r.c = ps ∧ r.d = d
  | .cflush => True
  | .dumpL0 _ base voff => r.a = base ∧ r.b = voff
  | .dumpL1 _ base voff => r.a = base ∧ r.b = voff
  | .dumpL2 _ base voff => r.a = base ∧ r.b = voff

/-- What a command's end leaves: the response delivered, IDLE, and `co_pending`, the events and the target as they were. -/
def endsWith (s t : State) (r : Response) : Prop :=
  t.phase = .idle ∧ t.responses = s.responses ++ [r] ∧ t.events = s.events ∧ t.coPending = s.coPending ∧
  t.drStack = [] ∧ t.inputs = s.inputs ∧ sameTarget s t

/-- The top frame `f` is being scanned, with nothing presented, and its next entry is `raw`. -/
def scansEntry (s : State) (f : Frame) (below : List Frame) (raw : Word) : Prop :=
  s.phase = .drun ∧ s.inputs = [] ∧ s.drLoad = none ∧ s.drStack = f :: below ∧ f.tbl[f.idx]? = some raw

/-- An entry is processed (43_dump R152). -/
def isProcessed (s : State) (raw : Word) : Prop :=
  (s.drShow = false ∧ raw.getLsbD 0 = true) ∨ (s.drShow = true ∧ raw ≠ 0)

end Sys2Proof.Machine
end

