-- ==== Sys2Proof/Certificates/Slice0/Obligations.lean ====
section
/-! DEFINITION. The statements for the provers, each from the spec's rules. `core.run k s` is k steps of the machine. -/

open Sys2Proof Sys2Proof.Machine

/-! ### Encoding -/

/-- A few words of 30_encoding R73, with operands, written as the opcode table numbers their bits: bus A from bit 8, bus B from
bit 72. The last five are reserved. -/
def Obligations.TableWordsDecode : Prop :=
  decodeTableWord 8 0x00 = some (.ptedec 0) ∧
  decodeTableWord 72 (0x01 + 0x40201456 * 2 ^ 8) = some (.vasplit 0x40201456) ∧
  decodeTableWord 136 (0x03 + 0x1000 * 2 ^ 8 + 0x123 * 2 ^ 72) = some (.xlate 0x1000 0x123) ∧
  decodeTableWord 8 0x05 = some .cflush ∧
  decodeTableWord 8 0x0E = some (.dumpL0 true 0 0) ∧
  decodeTableWord 8 0x16 = some (.dumpL1 false 0 0) ∧
  decodeTableWord 8 0x2E = some (.dumpL2 true 0 0) ∧
  decodeTableWord 8 0x07 = none ∧
  decodeTableWord 8 0x08 = none ∧
  decodeTableWord 8 0x13 = none ∧
  decodeTableWord 8 0x36 = none ∧
  decodeTableWord 8 0x46 = none

/-- 30_encoding R73: the twelve legal words with their commands, whatever the buses carry; no other word decodes to a command, and one
presented to the idle block is refused: no response and no next state. -/
def Obligations.OnlyLegalWordsAreCommands : Prop :=
  (∀ a b c d : Word,
    decode ⟨0x00, a, b, c, d⟩ = .ok (.ptedec a) ∧
    decode ⟨0x01, a, b, c, d⟩ = .ok (.vasplit a) ∧
    decode ⟨0x02, a, b, c, d⟩ = .ok (.rootdec a) ∧
    decode ⟨0x03, a, b, c, d⟩ = .ok (.xlate a b) ∧
    decode ⟨0x04, a, b, c, d⟩ = .ok (.cpush a b c d) ∧
    decode ⟨0x05, a, b, c, d⟩ = .ok .cflush ∧
    decode ⟨0x06, a, b, c, d⟩ = .ok (.dumpL0 false a b) ∧
    decode ⟨0x0E, a, b, c, d⟩ = .ok (.dumpL0 true a b) ∧
    decode ⟨0x16, a, b, c, d⟩ = .ok (.dumpL1 false a b) ∧
    decode ⟨0x1E, a, b, c, d⟩ = .ok (.dumpL1 true a b) ∧
    decode ⟨0x26, a, b, c, d⟩ = .ok (.dumpL2 false a b) ∧
    decode ⟨0x2E, a, b, c, d⟩ = .ok (.dumpL2 true a b)) ∧
  ∀ r : Request,
    r.word ∉ ([0x00, 0x01, 0x02, 0x03, 0x04, 0x05, 0x06, 0x0E, 0x16, 0x1E, 0x26, 0x2E] : List Byte) →
    (∀ i, decode r ≠ .ok i) ∧
    ∀ (s : State) (rest : List Input), s.phase = .idle → s.inputs = .command r :: rest →
      ∃ why, step s = .refused (.noCommand r.word why)

/-- 30_encoding R74, R75: decode and encode agree on every command; and a request decodes to a command exactly when its word is the
command's and the buses the command uses carry its operands, the other buses not counting. -/
def Obligations.DecodeAndEncodeAgree : Prop :=
  (∀ i : Instr, decode (encode i) = .ok i) ∧
  ∀ (r : Request) (i : Instr), decode r = .ok i ↔ r.word = encodeWord i ∧ carriesOperands i r

/-- The step runs the command that the presented request decodes to, taken off the interface. That what is presented is the head
of a schedule is the model's choice (log 2). -/
def Obligations.StepRunsTheDecodedCommand : Prop :=
  ∀ (s : State) (r : Request) (rest : List Input) (i : Instr),
    s.phase = .idle → s.inputs = .command r :: rest → decode r = .ok i →
    step s = exec i { s with inputs := rest }

/-! ### The extractor -/

/-- 00_scope R9: the spans of the three levels. -/
def Obligations.SpansOfTheLevels : Prop :=
  span .l0 = 2 ^ 30 ∧ span .l1 = 2 ^ 21 ∧ span .l2 = 2 ^ 12 ∧
  ∀ l : Level, span l = 4096 * 512 ^ (2 - l.toNat)

/-- 40_extractor R91: the kind of an entry by its bits 0 to 3, for every entry. -/
def Obligations.KindByTheFourLowBits : Prop :=
  ∀ raw : Word,
    (pteKind raw = .invalid ↔ raw.getLsbD 0 = false) ∧
    (pteKind raw = .leaf ↔
      raw.getLsbD 0 = true ∧ (raw.getLsbD 1 = true ∨ raw.getLsbD 2 = true ∨ raw.getLsbD 3 = true)) ∧
    (pteKind raw = .directory ↔
      raw.getLsbD 0 = true ∧ raw.getLsbD 1 = false ∧ raw.getLsbD 2 = false ∧ raw.getLsbD 3 = false)

/-- 40_extractor R97: the five laws of the extractor's fields, for every entry, virtual address and control value; bits 63 to 54 of
an entry are the only ones in no result. -/
def Obligations.ExtractorLosesNoBit : Prop :=
  (∀ raw : Word,
    (ptePpn raw).toNat = (raw >>> 10).toNat % 2 ^ 44 ∧
    (∀ k, k < 10 → (pteFlags raw).getLsbD k = raw.getLsbD k) ∧
    (pteKind raw = .invalid ∨ pteKind raw = .leaf ∨ pteKind raw = .directory) ∧
    raw = ((raw >>> 54) <<< 54) ||| ((ptePpn raw).setWidth 64 <<< 10) ||| (pteFlags raw).setWidth 64) ∧
  (∀ raw raw' : Word, raw.toNat % 2 ^ 54 = raw'.toNat % 2 ^ 54 ↔ ptePpn raw = ptePpn raw' ∧
      pteFlags raw = pteFlags raw') ∧
  (∀ va : Word,
    va &&& 0x7FFFFFFFFF =
      ((vpn2 va).setWidth 64 <<< 30) ||| ((vpn1 va).setWidth 64 <<< 21) ||| ((vpn0 va).setWidth 64 <<< 12) |||
        (vaOffset va).setWidth 64) ∧
  ∀ ctrl : Word,
    ctrl =
      ((ctrlMode ctrl).setWidth 64 <<< 60) ||| ((ctrlAsid ctrl).setWidth 64 <<< 44) |||
        (ctrlRootPpn ctrl).setWidth 64

/-- 40_extractor R93: PTEDEC, on every entry, answers its flags, its page number and its kind code, and changes nothing but
the responses delivered. -/
def Obligations.PtedecAnswersTheFields : Prop :=
  ∀ (raw b c d : Word) (s : State), s.phase = .idle →
    decode ⟨0x00, raw, b, c, d⟩ = .ok (.ptedec raw) ∧
    exec (.ptedec raw) s = .next { s with responses := s.responses ++
      [{ status := .ok, e := false
         r0 := raw.toNat % 2 ^ 10
         r1 := raw.toNat / 2 ^ 10 % 2 ^ 44
         r2 := if raw.getLsbD 0 = false then 0
               else if raw.getLsbD 1 = true ∨ raw.getLsbD 2 = true ∨ raw.getLsbD 3 = true then 1 else 2
         r3 := 0 }] }

/-- 40_extractor R94: VASPLIT, on every address, answers VPN[2], VPN[1], VPN[0] and the offset, and changes nothing but the
responses delivered. -/
def Obligations.VasplitAnswersTheIndices : Prop :=
  ∀ (va b c d : Word) (s : State), s.phase = .idle →
    decode ⟨0x01, va, b, c, d⟩ = .ok (.vasplit va) ∧
    exec (.vasplit va) s = .next { s with responses := s.responses ++
      [{ status := .ok, e := false
         r0 := va.toNat / 2 ^ 30 % 2 ^ 9
         r1 := va.toNat / 2 ^ 21 % 2 ^ 9
         r2 := va.toNat / 2 ^ 12 % 2 ^ 9
         r3 := va.toNat % 2 ^ 12 }] }

/-- 40_extractor R96: ROOTDEC, on every control value, answers its fields, with status OK exactly when the mode is 8, and changes
nothing but the responses delivered. -/
def Obligations.RootdecChecksTheMode : Prop :=
  ∀ (ctrl b c d : Word) (s : State), s.phase = .idle →
    decode ⟨0x02, ctrl, b, c, d⟩ = .ok (.rootdec ctrl) ∧
    exec (.rootdec ctrl) s = .next { s with responses := s.responses ++
      [{ status := if ctrl.toNat / 2 ^ 60 = 8 then .ok else .unsupportedMode
         e := false
         r0 := ctrl.toNat % 2 ^ 44 * 4096
         r1 := ctrl.toNat / 2 ^ 44 % 2 ^ 16
         r2 := ctrl.toNat / 2 ^ 60
         r3 := ctrl.toNat % 2 ^ 44 }] }

/-! ### The coalescer -/

/-- 42_coalescer R132 (with R130 and R131): CPUSH on every tuple and every pending region: it starts a region, extends the pending
one, or emits it and starts a new one; only `co_pending` and the responses change. -/
def Obligations.CpushMergesOrEmits : Prop :=
  ∀ (vs ve ps d : Word) (s : State), s.phase = .idle →
    let t : Region := { vs := vs.toNat, ve := ve.toNat, ps := ps.toNat, fl := d.extractLsb' 0 10 }
    decode ⟨0x04, vs, ve, ps, d⟩ = .ok (.cpush vs ve ps d) ∧
    (s.coPending = none →
      exec (.cpush vs ve ps d) s = .next { s with
        coPending := some t
        responses := s.responses ++ [{ status := .ok, e := false, r0 := 0, r1 := 0, r2 := 0, r3 := 0 }] }) ∧
    (∀ q, s.coPending = some q →
      q.ve = t.vs ∧ q.fl = t.fl ∧ (q.ps : Int) + ((q.ve : Int) - (q.vs : Int)) = (t.ps : Int) →
      exec (.cpush vs ve ps d) s = .next { s with
        coPending := some { vs := q.vs, ve := t.ve, ps := q.ps, fl := q.fl }
        responses := s.responses ++ [{ status := .ok, e := false, r0 := 0, r1 := 0, r2 := 0, r3 := 0 }] }) ∧
    (∀ q, s.coPending = some q →
      ¬ (q.ve = t.vs ∧ q.fl = t.fl ∧ (q.ps : Int) + ((q.ve : Int) - (q.vs : Int)) = (t.ps : Int)) →
      exec (.cpush vs ve ps d) s = .next { s with
        coPending := some t
        responses := s.responses ++
          [{ status := .ok, e := true, r0 := q.vs, r1 := q.ve, r2 := q.ps, r3 := q.fl.toNat }] })

/-- 42_coalescer R133: CFLUSH emits the pending region, if there is one, and leaves none; only `co_pending` and the responses
change. -/
def Obligations.CflushEmitsThePending : Prop :=
  ∀ (a b c d : Word) (s : State), s.phase = .idle →
    decode ⟨0x05, a, b, c, d⟩ = .ok .cflush ∧
    (s.coPending = none →
      exec .cflush s = .next { s with
        responses := s.responses ++ [{ status := .ok, e := false, r0 := 0, r1 := 0, r2 := 0, r3 := 0 }] }) ∧
    ∀ q, s.coPending = some q →
      exec .cflush s = .next { s with
        coPending := none
        responses := s.responses ++
          [{ status := .ok, e := true, r0 := q.vs, r1 := q.ve, r2 := q.ps, r3 := q.fl.toNat }] }

/-- 42_coalescer R135: for every stream of tuples in strictly increasing, non-overlapping order, pushed from the absent state and flushed
at its end, the emitted regions are the unions of consecutive runs of adjacent tuples, the runs are maximal, the regions come
in increasing order, and each tuple lies in exactly one of them. -/
def Obligations.CoalescerEmitsMaximalRuns : Prop :=
  ∀ ts : List Region, orderedTuples ts →
    (∃ runs : List (List Region), runs.flatten = ts ∧ (∀ run ∈ runs, run.IsChain adjacent) ∧
      List.Forall₂
        (fun run q => ∃ first last, run.head? = some first ∧ run.getLast? = some last ∧
          q = { vs := first.vs, ve := last.ve, ps := first.ps, fl := first.fl : Region })
        runs (coalRun ts none)) ∧
    (coalRun ts none).IsChain (fun q q' => ¬ adjacent q q') ∧
    (coalRun ts none).Pairwise (fun q q' => q.vs < q'.vs) ∧
    ∀ t ∈ ts, ∃! q, q ∈ coalRun ts none ∧ q.vs ≤ t.vs ∧ t.ve ≤ q.ve

/-! ### Memory reads -/

/-- 20_memory R42, R43: a read below 2^64 makes one request and answers MEM(pa) when the address is accessible, HostMemoryError when it is
not; an address that is not below 2^64 fails without a request. The target holds still (R41). -/
def Obligations.ReadEntryAsksTheAccessorOnce : Prop :=
  ∀ (pa : Nat) (s : State), s.disturbed = false →
    (pa < 2 ^ 64 → (∃ r ∈ s.accessible, r.lo ≤ pa ∧ pa < r.hi) →
      readEntry pa s = (some (Memory.readWord s.mem s.byteOrder pa), { s with reads := s.reads ++ [pa] })) ∧
    (pa < 2 ^ 64 → (¬ ∃ r ∈ s.accessible, r.lo ≤ pa ∧ pa < r.hi) →
      readEntry pa s = (none, { s with reads := s.reads ++ [pa] })) ∧
    (2 ^ 64 ≤ pa → readEntry pa s = (none, s))

/-- The model's choice (log 8, log 10; 20_memory R47 leaves the byte order open): the word at an address is built from the eight bytes
there, the first lowest for a little-endian target and highest for a big-endian one. -/
def Obligations.EntryBytesFollowTheByteOrder : Prop :=
  ∀ (m : Memory) (pa i : Nat), i < 8 →
    (Memory.readWord m .little pa).extractLsb' (8 * i) 8 = Memory.readByte m (pa + i) ∧
    (Memory.readWord m .big pa).extractLsb' (8 * (7 - i)) 8 = Memory.readByte m (pa + i)

/-- 20_memory R44: no step of the block writes memory: every byte reads as before, unless the target itself stores in this
step (log 2). -/
def Obligations.BlockWritesNoMemory : Prop :=
  ∀ s t : State, step s = .next t → (∀ cells rest, s.inputs ≠ .targetStore cells :: rest) →
    (∀ a, Memory.readByte t.mem a = Memory.readByte s.mem a) ∧ t.mem = s.mem ∧ t.byteOrder = s.byteOrder

/-- The model's reading of 70_reset_and_hazards R203 and 20_memory R53 (log 12): a store of the target while the block is idle changes
what the next command reads and nothing else; a store while a command is in progress makes every further read of that command a
draw. -/
def Obligations.ChangingTargetMakesReadsDraws : Prop :=
  (∀ (s : State) (cells : List (Word × Byte)) (rest : List Input),
    s.inputs = .targetStore cells :: rest → s.phase = .idle → s.disturbed = false →
    step s = .next { s with mem := Memory.writeCells s.mem cells, inputs := rest }) ∧
  (∀ (s : State) (cells : List (Word × Byte)) (rest : List Input),
    s.inputs = .targetStore cells :: rest → s.phase ≠ .idle →
    step s = .next { s with mem := Memory.writeCells s.mem cells, inputs := rest, disturbed := true }) ∧
  ∀ (s : State) (pa : Nat), s.disturbed = true → pa < 2 ^ 64 →
    readEntry pa s =
      (Config.draw s.freeCount, { s with reads := s.reads ++ [pa], freeCount := s.freeCount + 1 })

/-! ### The translator -/

/-- 41_translator R111: XLATE's acceptance latches root, address and level 0 and enters XWALK; nothing is read, nothing answered, nothing
else changed. -/
def Obligations.XlateLatchesItsOperands : Prop :=
  ∀ (root va c d : Word) (s : State), s.phase = .idle →
    decode ⟨0x03, root, va, c, d⟩ = .ok (.xlate root va) ∧
    exec (.xlate root va) s =
      .next { s with phase := .xwalk, xlTable := root, xlVa := va, xlLevel := .l0 }

/-- 41_translator R112, R113, R114: the walk step, whatever it reads: exactly one read at the table's entry for the level, and then one of
the five ends or the next level. -/
def Obligations.WalkStepReadsOneEntry : Prop :=
  ∀ (s : State) (pa : Nat), s.phase = .xwalk → s.disturbed = false → s.inputs = [] →
    pa = s.xlTable.toNat + 8 * (s.xlVa.toNat / 2 ^ (30 - 9 * s.xlLevel.toNat) % 2 ^ 9) →
    (s.entryAt pa = none → ∃ t, step s = .next t ∧ t.reads = s.reads ++ requestFor pa ∧
      endsWith s t { status := .hostMemoryError, r0 := pa }) ∧
    ∀ raw, s.entryAt pa = some raw →
      (pteKind raw = .invalid → ∃ t, step s = .next t ∧ t.reads = s.reads ++ [pa] ∧
        endsWith s t { status := .unmapped }) ∧
      (pteKind raw = .leaf → ∃ t, step s = .next t ∧ t.reads = s.reads ++ [pa] ∧
        endsWith s t { status := .ok
                       r0 := (ptePpn raw).toNat * 4096 + s.xlVa.toNat % 2 ^ 12
                       r1 := raw.toNat % 2 ^ 10 }) ∧
      (pteKind raw = .directory → s.xlLevel = .l2 → ∃ t, step s = .next t ∧ t.reads = s.reads ++ [pa] ∧
        endsWith s t { status := .malformed }) ∧
      (pteKind raw = .directory → ∀ l, s.xlLevel.next? = some l →
        step s = .next { s with
          reads := s.reads ++ [pa]
          xlTable := BitVec.ofNat 64 ((ptePpn raw).toNat * 4096)
          xlLevel := l })

/-- 41_translator R110: no step leaves XWALK without a response: it stays at a deeper level with no response, or it is IDLE with
exactly one; reset alone drops the command (70 R200). -/
def Obligations.WalkLeavesOnlyWithAResponse : Prop :=
  ∀ s t : State, s.phase = .xwalk → step s = .next t →
    (t.phase = .xwalk ∧ t.responses = s.responses ∧ (t.xlLevel = s.xlLevel ∨ s.xlLevel.next? = some t.xlLevel)) ∨
    (t.phase = .idle ∧ ∃ r, t.responses = s.responses ++ [r]) ∨
    (t.phase = .idle ∧ t.responses = s.responses ∧ ∃ rest, s.inputs = .reset :: rest)

/-- 41_translator R115: XLATE from acceptance to response is `translate`, in one to three walk steps, with the reads and the response
of that function; these depend only on the root, the low 39 bits of the address and the entries read. -/
def Obligations.XlateIsTranslate : Prop :=
  (∀ (root va : Word) (s : State), s.phase = .idle → s.disturbed = false → s.inputs = [] →
    ∃ u k t, exec (.xlate root va) s = .next u ∧ 1 ≤ k ∧ k ≤ 3 ∧ Sys2Proof.core.run k u = .next t ∧
      t.reads = s.reads ++ (translate s.entryAt root va).reads ∧
      endsWith s t (translate s.entryAt root va).response) ∧
  (∀ (mem : Nat → Option Word) (root va : Word), (translate mem root va).reads.length ≤ 3) ∧
  ∀ (mem mem' : Nat → Option Word) (root va va' : Word),
    (∀ pa, 2 ^ 64 ≤ pa → mem pa = none ∧ mem' pa = none) →
    (∀ pa ∈ (translate mem root va).reads, mem pa = mem' pa) →
    va.toNat % 2 ^ 39 = va'.toNat % 2 ^ 39 →
    translate mem root va = translate mem' root va'

/-! ### The scan sequencer -/

/-- 43_dump R151, with one read a step (the model's choice, 43_dump R166, log 1 and log 15): DUMP's acceptance, at each of the three
levels, enters DRUN, takes SHOW_INVALID and begins the table's reading; nothing else changes. -/
def Obligations.DumpBeginsItsTable : Prop :=
  ∀ (si : Bool) (base voff : Word) (s : State), s.phase = .idle →
    exec (.dumpL0 si base voff) s = .next { s with
      phase := .drun
      drShow := si
      drLoad := some { base := base, level := .l0, voff := voff.toNat, got := [] } } ∧
    exec (.dumpL1 si base voff) s = .next { s with
      phase := .drun
      drShow := si
      drLoad := some { base := base, level := .l1, voff := voff.toNat, got := [] } } ∧
    exec (.dumpL2 si base voff) s = .next { s with
      phase := .drun
      drShow := si
      drLoad := some { base := base, level := .l2, voff := voff.toNat, got := [] } }

/-- 43_dump R153, one read a step (log 1): entries are read in ascending index at base + 8 i, and after the 512th the frame is pushed with
idx 0 and no pending region. -/
def Obligations.TableIsReadWholeInOrder : Prop :=
  ∀ (s : State) (ld : Loading) (raw : Word),
    s.phase = .drun → s.disturbed = false → s.inputs = [] → s.drLoad = some ld → ld.got.length < 512 →
    s.entryAt (ld.base.toNat + 8 * ld.got.length) = some raw →
    (ld.got.length < 511 → step s = .next { s with
      reads := s.reads ++ [ld.base.toNat + 8 * ld.got.length]
      drLoad := some { ld with got := ld.got ++ [raw] } }) ∧
    (ld.got.length = 511 → step s = .next { s with
      reads := s.reads ++ [ld.base.toNat + 8 * ld.got.length]
      drLoad := none
      drStack :=
        { base := ld.base, level := ld.level, voff := ld.voff, tbl := ld.got ++ [raw], idx := 0, coal := none }
          :: s.drStack })

/-- 43_dump R160: a failed read ends the DUMP: one response with the failing address, an empty stack, no event, and the events and
`co_pending` as they were; and no pending region is lost, since while a table is read every frame's coalescer is absent. -/
def Obligations.FailedReadAbortsTheDump : Prop :=
  ∀ (s : State) (ld : Loading),
    s.phase = .drun → s.disturbed = false → s.inputs = [] → s.drLoad = some ld →
    s.entryAt (ld.base.toNat + 8 * ld.got.length) = none →
    ∃ t, step s = .next t ∧ t.drLoad = none ∧
      t.reads = s.reads ++ requestFor (ld.base.toNat + 8 * ld.got.length) ∧
      endsWith s t { status := .hostMemoryError, r0 := ld.base.toNat + 8 * ld.got.length } ∧
      (Invariant s → ∀ g ∈ s.drStack, g.coal = none)

/-- 43_dump R152, a skipped entry taking a step of its own (the model's choice, log 1): an entry that is not processed is skipped:
nothing is emitted and the coalescer is not touched. By default an entry is processed when Valid; with SHOW_INVALID, when it is
not 0. -/
def Obligations.SkippedEntryTouchesNothing : Prop :=
  ∀ (s : State) (f : Frame) (below : List Frame) (raw : Word), scansEntry s f below raw →
    ((s.drShow = false ∧ raw.getLsbD 0 = false) ∨ (s.drShow = true ∧ raw = 0)) →
    step s = .next { s with drStack := { f with idx := f.idx + 1 } :: below }

/-- 43_dump R155 (with R154 and 42_coalescer R130): a processed Leaf is pushed to the frame's own coalescer with its full span; a region
that it breaks is emitted. -/
def Obligations.LeafEntryFeedsItsCoalescer : Prop :=
  ∀ (s : State) (f : Frame) (below : List Frame) (raw : Word), scansEntry s f below raw →
    isProcessed s raw → pteKind raw = .leaf →
    let t : Region :=
      { vs := f.voff + f.idx * span f.level
        ve := f.voff + f.idx * span f.level + span f.level
        ps := (ptePpn raw).toNat * 4096
        fl := pteFlags raw }
    (f.coal = none →
      step s = .next { s with drStack := { f with idx := f.idx + 1, coal := some t } :: below }) ∧
    (∀ q, f.coal = some q → adjacent q t →
      step s = .next { s with
        drStack :=
          { f with idx := f.idx + 1, coal := some { vs := q.vs, ve := t.ve, ps := q.ps, fl := q.fl } } :: below }) ∧
    (∀ q, f.coal = some q → ¬ adjacent q t →
      step s = .next { s with
        drStack := { f with idx := f.idx + 1, coal := some t } :: below
        events := s.events ++ [.region f.level q.vs q.ve q.ps q.fl] })

/-- 43_dump R156 (its table reads by log 1): a processed Directory above level 2 flushes, emits its DIR record and enters the
child table one level down. -/
def Obligations.DirectoryEntryOpensItsChild : Prop :=
  ∀ (s : State) (f : Frame) (below : List Frame) (raw : Word) (l : Level), scansEntry s f below raw →
    isProcessed s raw → pteKind raw = .directory → f.level.next? = some l →
    step s = .next { s with
      events := s.events ++ (regionEvents f.level f.coal ++
        [.dir f.level f.idx (f.voff + f.idx * span f.level) ((ptePpn raw).toNat * 4096)])
      drStack := { f with idx := f.idx + 1, coal := none } :: below
      drLoad := some
        { base := BitVec.ofNat 64 ((ptePpn raw).toNat * 4096)
          level := l
          voff := f.voff + f.idx * span f.level
          got := [] } }

/-- 43_dump R157: a processed Directory at level 2 flushes and is reported as MALFORMED; the scan goes on, with no child. -/
def Obligations.LevelTwoDirectoryIsMalformed : Prop :=
  ∀ (s : State) (f : Frame) (below : List Frame) (raw : Word), scansEntry s f below raw →
    isProcessed s raw → pteKind raw = .directory → f.level = .l2 →
    step s = .next { s with
      events := s.events ++ (regionEvents .l2 f.coal ++
        [.malformed .l2 f.idx (f.voff + f.idx * span .l2) raw])
      drStack := { f with idx := f.idx + 1, coal := none } :: below }

/-- 43_dump R159: with SHOW_INVALID, an Invalid entry that is not 0 flushes and is reported. -/
def Obligations.InvalidEntryIsReported : Prop :=
  ∀ (s : State) (f : Frame) (below : List Frame) (raw : Word), scansEntry s f below raw →
    s.drShow = true → raw ≠ 0 → pteKind raw = .invalid →
    step s = .next { s with
      events := s.events ++ (regionEvents f.level f.coal ++
        [.invalid f.level f.idx (f.voff + f.idx * span f.level) raw])
      drStack := { f with idx := f.idx + 1, coal := none } :: below }

/-- 43_dump R158, a table's end taking a step of its own (the model's choice, log 1): at index 512 the frame's pending region is
emitted and the frame popped; the last frame's end is the DUMP's OK response. -/
def Obligations.TableEndFlushesAndPops : Prop :=
  ∀ (s : State) (f : Frame) (below : List Frame),
    s.phase = .drun → s.inputs = [] → s.drLoad = none → s.drStack = f :: below →
    f.tbl.length = 512 → f.idx = 512 →
    (below ≠ [] → step s = .next { s with
      events := s.events ++ regionEvents f.level f.coal
      drStack := below }) ∧
    (below = [] → ∃ t, step s = .next t ∧ t.phase = .idle ∧ t.drStack = [] ∧
      t.responses = s.responses ++ [{ status := .ok }] ∧
      t.events = s.events ++ regionEvents f.level f.coal ∧ t.reads = s.reads ∧
      t.coPending = s.coPending ∧ sameTarget s t)

/-- 43_dump R161: DUMP from acceptance to response is `dumpTable`: some number of steps makes that procedure's reads, appends its events
and answers OK, or HOST_MEMORY_ERROR with the failing address. -/
def Obligations.DumpIsDumpTable : Prop :=
  ∀ (l : Level) (si : Bool) (base voff : Word) (s : State),
    s.phase = .idle → s.disturbed = false → s.inputs = [] → s.drStack = [] →
    ∃ u k t, exec (dumpInstr l si base voff) s = .next u ∧ Sys2Proof.core.run k u = .next t ∧
      t.phase = .idle ∧ t.drStack = [] ∧
      t.reads = s.reads ++ (dumpWhole s.entryAt l si base voff).reads ∧
      t.events = s.events ++ (dumpWhole s.entryAt l si base voff).events ∧
      t.responses = s.responses ++ [dumpResponse (dumpWhole s.entryAt l si base voff)] ∧
      t.coPending = s.coPending ∧ sameTarget s t

/-- 43_dump R163 over `dumpTable`: a DUMP that succeeds reads 512 entries for each table, one table more than its DIR records, and
there are at most 512 + 512^2 of those. -/
def Obligations.DumpReadsWholeTables : Prop :=
  ∀ (mem : Nat → Option Word) (l : Level) (si : Bool) (base voff : Word),
    (∀ pa, 2 ^ 64 ≤ pa → mem pa = none) → (dumpWhole mem l si base voff).failed = none →
    (dumpWhole mem l si base voff).reads.length =
      512 * (1 + (dumpWhole mem l si base voff).events.countP isDir) ∧
    (dumpWhole mem l si base voff).events.countP isDir ≤ 512 + 512 ^ 2

/-- 43_dump R162 over `dumpTable`: the records of the scanned table come in strictly ascending virtual order, and each DIR record of it is
followed at once by the events of its child table. -/
def Obligations.DumpEventsComeInOrder : Prop :=
  ∀ (mem : Nat → Option Word) (l : Level) (si : Bool) (base voff : Word),
    ((dumpWhole mem l si base voff).events.filter fun ev => eventLevel ev == l).Pairwise
      (fun ev ev' => eventStart ev < eventStart ev') ∧
    ∀ (l' : Level) (i vs child : Nat) (pre post : List Event), l.next? = some l' →
      (dumpWhole mem l si base voff).events = pre ++ .dir l i vs child :: post →
      (dumpTable mem si (levelsFrom l') child vs).events <+: post

/-- 43_dump R164 over `dumpTable`: two DUMPs with the same operands, over memories that agree at the addresses read, give the same
reads, the same events and the same response. -/
def Obligations.DumpDependsOnWhatItReads : Prop :=
  ∀ (mem mem' : Nat → Option Word) (l : Level) (si : Bool) (base voff : Word),
    (∀ pa, 2 ^ 64 ≤ pa → mem pa = none ∧ mem' pa = none) →
    (∀ pa ∈ (dumpWhole mem l si base voff).reads, mem pa = mem' pa) →
    dumpWhole mem l si base voff = dumpWhole mem' l si base voff

/-! ### The command interface -/

/-- 70_reset_and_hazards R205: a command presented while the block is busy is held: whatever it is, the block goes on exactly as if
nothing were presented, and the command stays presented. `exec` at a busy block is the model's reading of it (log 17). -/
def Obligations.BusyBlockHoldsACommand : Prop :=
  ∀ s : State, s.phase ≠ .idle →
    (∀ i : Instr, exec i s = .next s) ∧
    ∀ (r : Request) (rest : List Input), Invariant s → s.inputs = .command r :: rest →
      ∃ t, step { s with inputs := [] } = .next t ∧ step s = .next { t with inputs := s.inputs }

/-- 70_reset_and_hazards R201: with nothing presented, the idle block waits. -/
def Obligations.IdleBlockWaits : Prop :=
  ∀ s : State, s.phase = .idle → s.inputs = [] → step s = .next s

/-- 30_encoding R86 and 60_exceptions R183, an expansion taking a step of its own (the model's choice, log 19): DUMPCUR with an
unsupported mode stops with that status, having read and emitted nothing; with mode 8 it goes on to present DUMP at level 0 from
ROOTDEC's root address; DUMPAT and XLATEAT check no mode. -/
def Obligations.PseudoCommandsExpand : Prop :=
  (∀ (s : State) (si : Bool) (rest : List Input), s.phase = .idle → s.inputs = .pseudo (.dumpcur si) :: rest →
    (s.ctrl.toNat / 2 ^ 60 ≠ 8 → Sys2Proof.core.run 3 s = .next { s with
      inputs := rest
      responses := s.responses ++ [rootdecResponse s.ctrl] }) ∧
    (s.ctrl.toNat / 2 ^ 60 = 8 → Sys2Proof.core.run 3 s = .next { s with
      inputs := .command (encode (.dumpL0 si (BitVec.ofNat 64 (s.ctrl.toNat % 2 ^ 44 * 4096)) 0)) :: rest
      responses := s.responses ++ [rootdecResponse s.ctrl] })) ∧
  (∀ (s : State) (si : Bool) (root : Word) (rest : List Input), s.phase = .idle →
    s.inputs = .pseudo (.dumpat si root) :: rest →
    step s = .next { s with inputs := .command (encode (.dumpL0 si root 0)) :: rest }) ∧
  ∀ (s : State) (root va : Word) (rest : List Input), s.phase = .idle →
    s.inputs = .pseudo (.xlateat root va) :: rest →
    step s = .next { s with inputs := .command (encode (.xlate root va)) :: rest }

/-- 30_encoding R87: a decimal literal, and a hexadecimal one with its prefix, denotes its value where that fits 64 bits, and
is a syntax error where it does not. -/
def Obligations.LiteralsDenoteTheirValues : Prop :=
  ∀ n : Nat,
    parseLiteral (Nat.toDigits 10 n) = (if n < 2 ^ 64 then some (BitVec.ofNat 64 n) else none) ∧
    parseLiteral ('0' :: 'x' :: Nat.toDigits 16 n) = (if n < 2 ^ 64 then some (BitVec.ofNat 64 n) else none)

/-! ### Reset -/

/-- 10_state R33: what the spec fixes of the state after reset. -/
def Obligations.ResetStateOfTheBlock : Prop :=
  State.reset.phase = .idle ∧ State.reset.coPending = none ∧ State.reset.drStack = []

/-- 70_reset_and_hazards R200: reset, in any state, drops the command in progress with no response and no read, leaves no
pending region, and keeps the events emitted. That memory, the readable addresses, the byte order, the control value and what is
presented next are kept too is the model's deduction (log 20): the spec says nothing of reset there. -/
def Obligations.ResetDropsTheCommand : Prop :=
  ∀ (s : State) (rest : List Input), s.inputs = .reset :: rest →
    ∃ t, step s = .next t ∧ t.phase = .idle ∧ t.coPending = none ∧ t.drStack = [] ∧ t.drLoad = none ∧
      t.responses = s.responses ∧ t.reads = s.reads ∧ t.events = s.events ∧ t.inputs = rest ∧ sameTarget s t

/-! ### The whole machine -/

/-- 10_state R25 and R31: of all that a step can do, only CPUSH, CFLUSH and reset change `co_pending`. -/
def Obligations.OnlyCoalescerCommandsTouchPending : Prop :=
  ∀ s t : State, step s = .next t →
    t.coPending = s.coPending ∨ (∃ rest, s.inputs = .reset :: rest) ∨
    ∃ r rest i, s.phase = .idle ∧ s.inputs = .command r :: rest ∧ decode r = .ok i ∧
      (i = .cflush ∨ ∃ vs ve ps d, i = .cpush vs ve ps d)

/-- 10_state R27 and 30_encoding R76: what has left the block is never taken back, and a step delivers at most one response. That
a step makes at most one request is the model's grain (log 1; 43_dump R166 leaves it open), and that requests, events and
responses are kept in lists is the model's choice (log 14). -/
def Obligations.OutputsAreAppendOnly : Prop :=
  ∀ s t : State, step s = .next t →
    s.events <+: t.events ∧
    (t.responses = s.responses ∨ ∃ r, t.responses = s.responses ++ [r]) ∧
    (t.reads = s.reads ∨ ∃ pa, t.reads = s.reads ++ [pa])

/-- 10_state R21: a response is delivered only by a step that ends in IDLE, and a step that leaves a command's phase for IDLE delivers one,
but for reset. -/
def Obligations.ResponseReturnsToIdle : Prop :=
  ∀ s t : State, step s = .next t →
    (t.responses ≠ s.responses → t.phase = .idle) ∧
    (s.phase ≠ .idle → t.phase = .idle →
      (∃ r, t.responses = s.responses ++ [r]) ∨ ∃ rest, s.inputs = .reset :: rest)

/-- `State.reset` meets the invariant and the output bounds, and nothing more is said. Of the fields these read, the spec fixes the
phase, `co_pending` and the scan stack at reset (10_state R33). That memory lists nothing (log 8), that no table is being read (log 15)
and that the lists of requests, events and responses are empty (log 14) is the model's choice; an in-run reset does not clear the event
output (R33), and this statement is not about one. -/
def Obligations.ResetMeetsTheInvariant : Prop := Invariant State.reset ∧ outputsOk State.reset

/-- 10_state R23, R25, R26: every step, from every state that meets the invariant, keeps it: the memory canonical, the scan stack
at most one frame for each level with its shape and bounds, the sequencer empty but in DRUN, `co_pending` within its widths. The
memory's form (log 8) and the table being read (log 15) are the model's own. -/
def Obligations.StepKeepsTheInvariant : Prop :=
  ∀ s t : State, Invariant s → step s = .next t → Invariant t

/-- 10_state R26: under the invariant the scan stack holds at most three frames, and frame voff and pending addresses are below
2^65. -/
def Obligations.ScanStackIsBounded : Prop :=
  ∀ s : State, Invariant s →
    s.drStack.length ≤ 3 ∧
    ∀ f ∈ s.drStack, f.voff < 2 ^ 65 ∧ f.idx ≤ 512 ∧ f.tbl.length = 512 ∧
      ∀ q, f.coal = some q → q.vs < 2 ^ 65 ∧ q.ve < 2 ^ 65

/-- 30_encoding R76 and R80: every step from a state that meets the invariant keeps every response, event and request within the
widths of the spec; that these are kept in lists is the model's choice (log 14). -/
def Obligations.StepKeepsOutputsInBounds : Prop :=
  ∀ s t : State, Invariant s → outputsOk s → step s = .next t → outputsOk t

/-- From a state that meets the invariant no step faults: the model's own stop (log 16) is never reached. -/
def Obligations.InvariantExcludesFaults : Prop :=
  ∀ (s : State) (r : Fault), Invariant s → step s ≠ .fault r

/-- 43_dump R163, 41_translator R110, 70_reset_and_hazards R205: from every state that meets the invariant, with nothing more
presented, the block comes to IDLE: every command ends, even over a target that has changed, whose reads are draws (70 R203; the
model's reading, log 12). -/
def Obligations.EveryCommandEnds : Prop :=
  ∀ s : State, Invariant s → s.inputs = [] →
    ∃ k t, Sys2Proof.core.run k s = .next t ∧ t.phase = .idle
end

