-- ==== Sys2Proof/Laws/Memory.lean ====
section
/-! SUPPORT. The laws of the target's memory: every operation keeps the canonical form, and a byte reads as it was last written. -/

namespace Sys2Proof.Machine

theorem memCanonicalFrom_mono {lo lo' : Nat} (h : lo' ≤ lo) :
    ∀ {m : Memory}, memCanonicalFrom lo m = true → memCanonicalFrom lo' m = true
  | [], _ => rfl
  | (a, b) :: m, hm => by
    simp only [memCanonicalFrom, Bool.and_eq_true, decide_eq_true_eq] at hm ⊢
    exact ⟨⟨⟨Nat.le_trans h hm.1.1.1, hm.1.1.2⟩, hm.1.2⟩, hm.2⟩

theorem memInsert_canonical {a : Nat} (b : Byte) (ha : a < 2 ^ 64) :
    ∀ {m : Memory} {lo : Nat}, lo ≤ a → memCanonicalFrom lo m = true →
      memCanonicalFrom lo (memInsert m a b) = true
  | [], lo, hlo, _ => by
    by_cases hb : b = unlistedByte
    · simp [memInsert, memCanonicalFrom, hb]
    · simp [memInsert, memCanonicalFrom, hb, hlo]
      omega
  | (k, c) :: m, lo, hlo, hm => by
    have hm' := hm
    simp only [memCanonicalFrom, Bool.and_eq_true, decide_eq_true_eq] at hm'
    obtain ⟨⟨⟨h1, h2⟩, h3⟩, h4⟩ := hm'
    unfold memInsert
    split
    · split
      · exact hm
      · rename_i hk hb
        simp only [memCanonicalFrom, Bool.and_eq_true, decide_eq_true_eq]
        exact ⟨⟨⟨hlo, ha⟩, by simp [hb]⟩, ⟨⟨by omega, h2⟩, h3⟩, h4⟩
    · split
      · split
        · exact memCanonicalFrom_mono (by omega) h4
        · rename_i hk he hb
          subst he
          simp only [memCanonicalFrom, Bool.and_eq_true, decide_eq_true_eq]
          exact ⟨⟨⟨hlo, ha⟩, by simp [hb]⟩, h4⟩
      · simp only [memCanonicalFrom, Bool.and_eq_true, decide_eq_true_eq]
        exact ⟨⟨⟨h1, h2⟩, h3⟩, memInsert_canonical b ha (by omega) h4⟩

/-- A write of the target keeps the canonical form. -/
theorem writeByte_wf {m : Memory} (a : Word) (b : Byte) (h : Memory.wf m = true) :
    Memory.wf (Memory.writeByte m a b) = true :=
  memInsert_canonical b a.isLt (Nat.zero_le _) h

/-- So do several. -/
theorem writeCells_wf : ∀ (cells : List (Word × Byte)) {m : Memory}, Memory.wf m = true →
    Memory.wf (Memory.writeCells m cells) = true
  | [], _, h => h
  | (a, b) :: cells, _, h => writeCells_wf cells (writeByte_wf a b h)

/-- The memory after reset is in canonical form. -/
theorem reset_mem_wf : Memory.wf State.reset.mem = true := rfl

theorem memLookup_below {a : Nat} : ∀ {m : Memory} {lo : Nat}, a < lo → memCanonicalFrom lo m = true →
    memLookup m a = unlistedByte
  | [], _, _, _ => rfl
  | (k, b) :: m, lo, h, hm => by
    simp only [memCanonicalFrom, Bool.and_eq_true, decide_eq_true_eq] at hm
    have hk : k ≠ a := by omega
    simp only [memLookup, hk, if_false]
    exact memLookup_below (by omega) hm.2

theorem memLookup_memInsert (a : Nat) (b : Byte) (x : Nat) :
    ∀ {m : Memory} {lo : Nat}, memCanonicalFrom lo m = true →
      memLookup (memInsert m a b) x = if x = a then b else memLookup m x
  | [], _, _ => by
    by_cases hx : x = a
    · subst hx
      by_cases hb : b = unlistedByte <;> simp [memInsert, memLookup, hb]
    · by_cases hb : b = unlistedByte <;> simp [memInsert, memLookup, hb, hx, Ne.symm hx]
  | (k, c) :: m, lo, hm => by
    have hm' := hm
    simp only [memCanonicalFrom, Bool.and_eq_true, decide_eq_true_eq] at hm'
    obtain ⟨⟨⟨h1, h2⟩, h3⟩, h4⟩ := hm'
    unfold memInsert
    split
    · rename_i hk
      split
      · rename_i hb
        by_cases hx : x = a
        · subst hx
          rw [if_pos rfl, hb]
          exact memLookup_below (lo := k) hk
            (by simp only [memCanonicalFrom, Bool.and_eq_true, decide_eq_true_eq]
                exact ⟨⟨⟨Nat.le_refl _, h2⟩, h3⟩, h4⟩)
        · rw [if_neg hx]
      · by_cases hx : x = a
        · simp [memLookup, hx]
        · rw [if_neg hx]
          simp [memLookup, Ne.symm hx]
    · split
      · rename_i hk he
        subst he
        split
        · rename_i hb
          by_cases hx : x = a
          · subst hx
            rw [if_pos rfl, hb]
            exact memLookup_below (lo := x + 1) (by omega) h4
          · rw [if_neg hx]
            simp [memLookup, Ne.symm hx]
        · by_cases hx : x = a
          · simp [memLookup, hx]
          · rw [if_neg hx]
            simp [memLookup, Ne.symm hx]
      · rename_i hk he
        by_cases hkx : k = x
        · have hx : x ≠ a := by omega
          simp [memLookup, hkx, hx]
        · simp only [memLookup, hkx, if_false]
          exact memLookup_memInsert a b x h4

/-- A byte reads as it was last written; every other byte is left alone. -/
theorem readByte_writeByte {m : Memory} (h : Memory.wf m = true) (a : Word) (b : Byte) (x : Nat) :
    Memory.readByte (Memory.writeByte m a b) x = if x = a.toNat then b else Memory.readByte m x := by
  unfold Memory.readByte Memory.writeByte
  by_cases hx : x < 2 ^ 64
  · rw [if_pos hx, if_pos hx]
    exact memLookup_memInsert a.toNat b x h
  · have : x ≠ a.toNat := by have := a.isLt; omega
    rw [if_neg hx, if_neg this, if_neg hx]

end Sys2Proof.Machine
end

