-- ==== Sys2Proof/Laws/State.lean ====
section
/-! SUPPORT. What each named update of the state leaves in each field, so that no proof unfolds a record update. -/

namespace Sys2Proof.Machine

/-! ### respond -/

@[simp] theorem respond_phase (r : Response) (s : State) : (respond r s).phase = .idle := rfl
@[simp] theorem respond_xlLevel (r : Response) (s : State) : (respond r s).xlLevel = s.xlLevel := rfl
@[simp] theorem respond_xlTable (r : Response) (s : State) : (respond r s).xlTable = s.xlTable := rfl
@[simp] theorem respond_xlVa (r : Response) (s : State) : (respond r s).xlVa = s.xlVa := rfl
@[simp] theorem respond_coPending (r : Response) (s : State) : (respond r s).coPending = s.coPending := rfl
@[simp] theorem respond_drShow (r : Response) (s : State) : (respond r s).drShow = s.drShow := rfl
@[simp] theorem respond_drStack (r : Response) (s : State) : (respond r s).drStack = s.drStack := rfl
@[simp] theorem respond_drLoad (r : Response) (s : State) : (respond r s).drLoad = s.drLoad := rfl
@[simp] theorem respond_mem (r : Response) (s : State) : (respond r s).mem = s.mem := rfl
@[simp] theorem respond_accessible (r : Response) (s : State) : (respond r s).accessible = s.accessible := rfl
@[simp] theorem respond_byteOrder (r : Response) (s : State) : (respond r s).byteOrder = s.byteOrder := rfl
@[simp] theorem respond_ctrl (r : Response) (s : State) : (respond r s).ctrl = s.ctrl := rfl
@[simp] theorem respond_inputs (r : Response) (s : State) : (respond r s).inputs = s.inputs := rfl
@[simp] theorem respond_reads (r : Response) (s : State) : (respond r s).reads = s.reads := rfl
@[simp] theorem respond_events (r : Response) (s : State) : (respond r s).events = s.events := rfl
@[simp] theorem respond_responses (r : Response) (s : State) : (respond r s).responses = s.responses ++ [r] := rfl
@[simp] theorem respond_disturbed (r : Response) (s : State) : (respond r s).disturbed = s.disturbed := rfl
@[simp] theorem respond_freeCount (r : Response) (s : State) : (respond r s).freeCount = s.freeCount := rfl

/-! ### emit -/

@[simp] theorem emit_phase (ev : Event) (s : State) : (emit ev s).phase = s.phase := rfl
@[simp] theorem emit_xlLevel (ev : Event) (s : State) : (emit ev s).xlLevel = s.xlLevel := rfl
@[simp] theorem emit_xlTable (ev : Event) (s : State) : (emit ev s).xlTable = s.xlTable := rfl
@[simp] theorem emit_xlVa (ev : Event) (s : State) : (emit ev s).xlVa = s.xlVa := rfl
@[simp] theorem emit_coPending (ev : Event) (s : State) : (emit ev s).coPending = s.coPending := rfl
@[simp] theorem emit_drShow (ev : Event) (s : State) : (emit ev s).drShow = s.drShow := rfl
@[simp] theorem emit_drStack (ev : Event) (s : State) : (emit ev s).drStack = s.drStack := rfl
@[simp] theorem emit_drLoad (ev : Event) (s : State) : (emit ev s).drLoad = s.drLoad := rfl
@[simp] theorem emit_mem (ev : Event) (s : State) : (emit ev s).mem = s.mem := rfl
@[simp] theorem emit_accessible (ev : Event) (s : State) : (emit ev s).accessible = s.accessible := rfl
@[simp] theorem emit_byteOrder (ev : Event) (s : State) : (emit ev s).byteOrder = s.byteOrder := rfl
@[simp] theorem emit_ctrl (ev : Event) (s : State) : (emit ev s).ctrl = s.ctrl := rfl
@[simp] theorem emit_inputs (ev : Event) (s : State) : (emit ev s).inputs = s.inputs := rfl
@[simp] theorem emit_reads (ev : Event) (s : State) : (emit ev s).reads = s.reads := rfl
@[simp] theorem emit_events (ev : Event) (s : State) : (emit ev s).events = s.events ++ [ev] := rfl
@[simp] theorem emit_responses (ev : Event) (s : State) : (emit ev s).responses = s.responses := rfl
@[simp] theorem emit_disturbed (ev : Event) (s : State) : (emit ev s).disturbed = s.disturbed := rfl
@[simp] theorem emit_freeCount (ev : Event) (s : State) : (emit ev s).freeCount = s.freeCount := rfl

/-! ### noteRead -/

@[simp] theorem noteRead_phase (pa : Nat) (s : State) : (noteRead pa s).phase = s.phase := rfl
@[simp] theorem noteRead_xlLevel (pa : Nat) (s : State) : (noteRead pa s).xlLevel = s.xlLevel := rfl
@[simp] theorem noteRead_xlTable (pa : Nat) (s : State) : (noteRead pa s).xlTable = s.xlTable := rfl
@[simp] theorem noteRead_xlVa (pa : Nat) (s : State) : (noteRead pa s).xlVa = s.xlVa := rfl
@[simp] theorem noteRead_coPending (pa : Nat) (s : State) : (noteRead pa s).coPending = s.coPending := rfl
@[simp] theorem noteRead_drShow (pa : Nat) (s : State) : (noteRead pa s).drShow = s.drShow := rfl
@[simp] theorem noteRead_drStack (pa : Nat) (s : State) : (noteRead pa s).drStack = s.drStack := rfl
@[simp] theorem noteRead_drLoad (pa : Nat) (s : State) : (noteRead pa s).drLoad = s.drLoad := rfl
@[simp] theorem noteRead_mem (pa : Nat) (s : State) : (noteRead pa s).mem = s.mem := rfl
@[simp] theorem noteRead_accessible (pa : Nat) (s : State) : (noteRead pa s).accessible = s.accessible := rfl
@[simp] theorem noteRead_byteOrder (pa : Nat) (s : State) : (noteRead pa s).byteOrder = s.byteOrder := rfl
@[simp] theorem noteRead_ctrl (pa : Nat) (s : State) : (noteRead pa s).ctrl = s.ctrl := rfl
@[simp] theorem noteRead_inputs (pa : Nat) (s : State) : (noteRead pa s).inputs = s.inputs := rfl
@[simp] theorem noteRead_reads (pa : Nat) (s : State) : (noteRead pa s).reads = s.reads ++ [pa] := rfl
@[simp] theorem noteRead_events (pa : Nat) (s : State) : (noteRead pa s).events = s.events := rfl
@[simp] theorem noteRead_responses (pa : Nat) (s : State) : (noteRead pa s).responses = s.responses := rfl
@[simp] theorem noteRead_disturbed (pa : Nat) (s : State) : (noteRead pa s).disturbed = s.disturbed := rfl
@[simp] theorem noteRead_freeCount (pa : Nat) (s : State) : (noteRead pa s).freeCount = s.freeCount := rfl

/-! ### useFree -/

@[simp] theorem useFree_phase (s : State) : (useFree s).phase = s.phase := rfl
@[simp] theorem useFree_xlLevel (s : State) : (useFree s).xlLevel = s.xlLevel := rfl
@[simp] theorem useFree_xlTable (s : State) : (useFree s).xlTable = s.xlTable := rfl
@[simp] theorem useFree_xlVa (s : State) : (useFree s).xlVa = s.xlVa := rfl
@[simp] theorem useFree_coPending (s : State) : (useFree s).coPending = s.coPending := rfl
@[simp] theorem useFree_drShow (s : State) : (useFree s).drShow = s.drShow := rfl
@[simp] theorem useFree_drStack (s : State) : (useFree s).drStack = s.drStack := rfl
@[simp] theorem useFree_drLoad (s : State) : (useFree s).drLoad = s.drLoad := rfl
@[simp] theorem useFree_mem (s : State) : (useFree s).mem = s.mem := rfl
@[simp] theorem useFree_accessible (s : State) : (useFree s).accessible = s.accessible := rfl
@[simp] theorem useFree_byteOrder (s : State) : (useFree s).byteOrder = s.byteOrder := rfl
@[simp] theorem useFree_ctrl (s : State) : (useFree s).ctrl = s.ctrl := rfl
@[simp] theorem useFree_inputs (s : State) : (useFree s).inputs = s.inputs := rfl
@[simp] theorem useFree_reads (s : State) : (useFree s).reads = s.reads := rfl
@[simp] theorem useFree_events (s : State) : (useFree s).events = s.events := rfl
@[simp] theorem useFree_responses (s : State) : (useFree s).responses = s.responses := rfl
@[simp] theorem useFree_disturbed (s : State) : (useFree s).disturbed = s.disturbed := rfl
@[simp] theorem useFree_freeCount (s : State) : (useFree s).freeCount = s.freeCount + 1 := rfl

/-! ### forgetSequencing -/

@[simp] theorem forgetSequencing_phase (s : State) : (forgetSequencing s).phase = s.phase := rfl
@[simp] theorem forgetSequencing_xlLevel (s : State) : (forgetSequencing s).xlLevel = Config.staleLevel s.freeCount := rfl
@[simp] theorem forgetSequencing_xlTable (s : State) : (forgetSequencing s).xlTable = Config.staleTable s.freeCount := rfl
@[simp] theorem forgetSequencing_xlVa (s : State) : (forgetSequencing s).xlVa = Config.staleVa s.freeCount := rfl
@[simp] theorem forgetSequencing_coPending (s : State) : (forgetSequencing s).coPending = s.coPending := rfl
@[simp] theorem forgetSequencing_drShow (s : State) : (forgetSequencing s).drShow = Config.staleShow s.freeCount := rfl
@[simp] theorem forgetSequencing_drStack (s : State) : (forgetSequencing s).drStack = [] := rfl
@[simp] theorem forgetSequencing_drLoad (s : State) : (forgetSequencing s).drLoad = none := rfl
@[simp] theorem forgetSequencing_mem (s : State) : (forgetSequencing s).mem = s.mem := rfl
@[simp] theorem forgetSequencing_accessible (s : State) : (forgetSequencing s).accessible = s.accessible := rfl
@[simp] theorem forgetSequencing_byteOrder (s : State) : (forgetSequencing s).byteOrder = s.byteOrder := rfl
@[simp] theorem forgetSequencing_ctrl (s : State) : (forgetSequencing s).ctrl = s.ctrl := rfl
@[simp] theorem forgetSequencing_inputs (s : State) : (forgetSequencing s).inputs = s.inputs := rfl
@[simp] theorem forgetSequencing_reads (s : State) : (forgetSequencing s).reads = s.reads := rfl
@[simp] theorem forgetSequencing_events (s : State) : (forgetSequencing s).events = s.events := rfl
@[simp] theorem forgetSequencing_responses (s : State) : (forgetSequencing s).responses = s.responses := rfl
@[simp] theorem forgetSequencing_disturbed (s : State) : (forgetSequencing s).disturbed = false := rfl
@[simp] theorem forgetSequencing_freeCount (s : State) : (forgetSequencing s).freeCount = s.freeCount + 1 := rfl

/-! ### endCommand -/

@[simp] theorem endCommand_phase (r : Response) (s : State) : (endCommand r s).phase = .idle := rfl
@[simp] theorem endCommand_xlLevel (r : Response) (s : State) : (endCommand r s).xlLevel = Config.staleLevel s.freeCount := rfl
@[simp] theorem endCommand_xlTable (r : Response) (s : State) : (endCommand r s).xlTable = Config.staleTable s.freeCount := rfl
@[simp] theorem endCommand_xlVa (r : Response) (s : State) : (endCommand r s).xlVa = Config.staleVa s.freeCount := rfl
@[simp] theorem endCommand_coPending (r : Response) (s : State) : (endCommand r s).coPending = s.coPending := rfl
@[simp] theorem endCommand_drShow (r : Response) (s : State) : (endCommand r s).drShow = Config.staleShow s.freeCount := rfl
@[simp] theorem endCommand_drStack (r : Response) (s : State) : (endCommand r s).drStack = [] := rfl
@[simp] theorem endCommand_drLoad (r : Response) (s : State) : (endCommand r s).drLoad = none := rfl
@[simp] theorem endCommand_mem (r : Response) (s : State) : (endCommand r s).mem = s.mem := rfl
@[simp] theorem endCommand_accessible (r : Response) (s : State) : (endCommand r s).accessible = s.accessible := rfl
@[simp] theorem endCommand_byteOrder (r : Response) (s : State) : (endCommand r s).byteOrder = s.byteOrder := rfl
@[simp] theorem endCommand_ctrl (r : Response) (s : State) : (endCommand r s).ctrl = s.ctrl := rfl
@[simp] theorem endCommand_inputs (r : Response) (s : State) : (endCommand r s).inputs = s.inputs := rfl
@[simp] theorem endCommand_reads (r : Response) (s : State) : (endCommand r s).reads = s.reads := rfl
@[simp] theorem endCommand_events (r : Response) (s : State) : (endCommand r s).events = s.events := rfl
@[simp] theorem endCommand_responses (r : Response) (s : State) : (endCommand r s).responses = s.responses ++ [r] := rfl
@[simp] theorem endCommand_disturbed (r : Response) (s : State) : (endCommand r s).disturbed = false := rfl
@[simp] theorem endCommand_freeCount (r : Response) (s : State) : (endCommand r s).freeCount = s.freeCount + 1 := rfl

/-! ### resetBlock -/

@[simp] theorem resetBlock_phase (s : State) : (resetBlock s).phase = .idle := rfl
@[simp] theorem resetBlock_xlLevel (s : State) : (resetBlock s).xlLevel = .l0 := rfl
@[simp] theorem resetBlock_xlTable (s : State) : (resetBlock s).xlTable = 0 := rfl
@[simp] theorem resetBlock_xlVa (s : State) : (resetBlock s).xlVa = 0 := rfl
@[simp] theorem resetBlock_coPending (s : State) : (resetBlock s).coPending = none := rfl
@[simp] theorem resetBlock_drShow (s : State) : (resetBlock s).drShow = false := rfl
@[simp] theorem resetBlock_drStack (s : State) : (resetBlock s).drStack = [] := rfl
@[simp] theorem resetBlock_drLoad (s : State) : (resetBlock s).drLoad = none := rfl
@[simp] theorem resetBlock_mem (s : State) : (resetBlock s).mem = s.mem := rfl
@[simp] theorem resetBlock_accessible (s : State) : (resetBlock s).accessible = s.accessible := rfl
@[simp] theorem resetBlock_byteOrder (s : State) : (resetBlock s).byteOrder = s.byteOrder := rfl
@[simp] theorem resetBlock_ctrl (s : State) : (resetBlock s).ctrl = s.ctrl := rfl
@[simp] theorem resetBlock_inputs (s : State) : (resetBlock s).inputs = s.inputs := rfl
@[simp] theorem resetBlock_reads (s : State) : (resetBlock s).reads = s.reads := rfl
@[simp] theorem resetBlock_events (s : State) : (resetBlock s).events = s.events := rfl
@[simp] theorem resetBlock_responses (s : State) : (resetBlock s).responses = s.responses := rfl
@[simp] theorem resetBlock_disturbed (s : State) : (resetBlock s).disturbed = false := rfl
@[simp] theorem resetBlock_freeCount (s : State) : (resetBlock s).freeCount = s.freeCount := rfl

/-! ### latchXlate -/

@[simp] theorem latchXlate_phase (root va : Word) (s : State) : (latchXlate root va s).phase = .xwalk := rfl
@[simp] theorem latchXlate_xlLevel (root va : Word) (s : State) : (latchXlate root va s).xlLevel = .l0 := rfl
@[simp] theorem latchXlate_xlTable (root va : Word) (s : State) : (latchXlate root va s).xlTable = root := rfl
@[simp] theorem latchXlate_xlVa (root va : Word) (s : State) : (latchXlate root va s).xlVa = va := rfl
@[simp] theorem latchXlate_coPending (root va : Word) (s : State) : (latchXlate root va s).coPending = s.coPending := rfl
@[simp] theorem latchXlate_drShow (root va : Word) (s : State) : (latchXlate root va s).drShow = s.drShow := rfl
@[simp] theorem latchXlate_drStack (root va : Word) (s : State) : (latchXlate root va s).drStack = s.drStack := rfl
@[simp] theorem latchXlate_drLoad (root va : Word) (s : State) : (latchXlate root va s).drLoad = s.drLoad := rfl
@[simp] theorem latchXlate_mem (root va : Word) (s : State) : (latchXlate root va s).mem = s.mem := rfl
@[simp] theorem latchXlate_accessible (root va : Word) (s : State) : (latchXlate root va s).accessible = s.accessible := rfl
@[simp] theorem latchXlate_byteOrder (root va : Word) (s : State) : (latchXlate root va s).byteOrder = s.byteOrder := rfl
@[simp] theorem latchXlate_ctrl (root va : Word) (s : State) : (latchXlate root va s).ctrl = s.ctrl := rfl
@[simp] theorem latchXlate_inputs (root va : Word) (s : State) : (latchXlate root va s).inputs = s.inputs := rfl
@[simp] theorem latchXlate_reads (root va : Word) (s : State) : (latchXlate root va s).reads = s.reads := rfl
@[simp] theorem latchXlate_events (root va : Word) (s : State) : (latchXlate root va s).events = s.events := rfl
@[simp] theorem latchXlate_responses (root va : Word) (s : State) : (latchXlate root va s).responses = s.responses := rfl
@[simp] theorem latchXlate_disturbed (root va : Word) (s : State) : (latchXlate root va s).disturbed = s.disturbed := rfl
@[simp] theorem latchXlate_freeCount (root va : Word) (s : State) : (latchXlate root va s).freeCount = s.freeCount := rfl

/-! ### enterTable -/

@[simp] theorem enterTable_phase (base : Word) (l : Level) (voff : Nat) (s : State) : (enterTable base l voff s).phase = s.phase := rfl
@[simp] theorem enterTable_xlLevel (base : Word) (l : Level) (voff : Nat) (s : State) : (enterTable base l voff s).xlLevel = s.xlLevel := rfl
@[simp] theorem enterTable_xlTable (base : Word) (l : Level) (voff : Nat) (s : State) : (enterTable base l voff s).xlTable = s.xlTable := rfl
@[simp] theorem enterTable_xlVa (base : Word) (l : Level) (voff : Nat) (s : State) : (enterTable base l voff s).xlVa = s.xlVa := rfl
@[simp] theorem enterTable_coPending (base : Word) (l : Level) (voff : Nat) (s : State) : (enterTable base l voff s).coPending = s.coPending := rfl
@[simp] theorem enterTable_drShow (base : Word) (l : Level) (voff : Nat) (s : State) : (enterTable base l voff s).drShow = s.drShow := rfl
@[simp] theorem enterTable_drStack (base : Word) (l : Level) (voff : Nat) (s : State) : (enterTable base l voff s).drStack = s.drStack := rfl
@[simp] theorem enterTable_drLoad (base : Word) (l : Level) (voff : Nat) (s : State) : (enterTable base l voff s).drLoad = some { base := base, level := l, voff := voff, got := [] } := rfl
@[simp] theorem enterTable_mem (base : Word) (l : Level) (voff : Nat) (s : State) : (enterTable base l voff s).mem = s.mem := rfl
@[simp] theorem enterTable_accessible (base : Word) (l : Level) (voff : Nat) (s : State) : (enterTable base l voff s).accessible = s.accessible := rfl
@[simp] theorem enterTable_byteOrder (base : Word) (l : Level) (voff : Nat) (s : State) : (enterTable base l voff s).byteOrder = s.byteOrder := rfl
@[simp] theorem enterTable_ctrl (base : Word) (l : Level) (voff : Nat) (s : State) : (enterTable base l voff s).ctrl = s.ctrl := rfl
@[simp] theorem enterTable_inputs (base : Word) (l : Level) (voff : Nat) (s : State) : (enterTable base l voff s).inputs = s.inputs := rfl
@[simp] theorem enterTable_reads (base : Word) (l : Level) (voff : Nat) (s : State) : (enterTable base l voff s).reads = s.reads := rfl
@[simp] theorem enterTable_events (base : Word) (l : Level) (voff : Nat) (s : State) : (enterTable base l voff s).events = s.events := rfl
@[simp] theorem enterTable_responses (base : Word) (l : Level) (voff : Nat) (s : State) : (enterTable base l voff s).responses = s.responses := rfl
@[simp] theorem enterTable_disturbed (base : Word) (l : Level) (voff : Nat) (s : State) : (enterTable base l voff s).disturbed = s.disturbed := rfl
@[simp] theorem enterTable_freeCount (base : Word) (l : Level) (voff : Nat) (s : State) : (enterTable base l voff s).freeCount = s.freeCount := rfl

/-! ### pushPending -/

@[simp] theorem pushPending_phase (t : Region) (s : State) : (pushPending t s).phase = .idle := rfl
@[simp] theorem pushPending_xlLevel (t : Region) (s : State) : (pushPending t s).xlLevel = s.xlLevel := rfl
@[simp] theorem pushPending_xlTable (t : Region) (s : State) : (pushPending t s).xlTable = s.xlTable := rfl
@[simp] theorem pushPending_xlVa (t : Region) (s : State) : (pushPending t s).xlVa = s.xlVa := rfl
@[simp] theorem pushPending_coPending (t : Region) (s : State) : (pushPending t s).coPending = (coalPush s.coPending t).1 := rfl
@[simp] theorem pushPending_drShow (t : Region) (s : State) : (pushPending t s).drShow = s.drShow := rfl
@[simp] theorem pushPending_drStack (t : Region) (s : State) : (pushPending t s).drStack = s.drStack := rfl
@[simp] theorem pushPending_drLoad (t : Region) (s : State) : (pushPending t s).drLoad = s.drLoad := rfl
@[simp] theorem pushPending_mem (t : Region) (s : State) : (pushPending t s).mem = s.mem := rfl
@[simp] theorem pushPending_accessible (t : Region) (s : State) : (pushPending t s).accessible = s.accessible := rfl
@[simp] theorem pushPending_byteOrder (t : Region) (s : State) : (pushPending t s).byteOrder = s.byteOrder := rfl
@[simp] theorem pushPending_ctrl (t : Region) (s : State) : (pushPending t s).ctrl = s.ctrl := rfl
@[simp] theorem pushPending_inputs (t : Region) (s : State) : (pushPending t s).inputs = s.inputs := rfl
@[simp] theorem pushPending_reads (t : Region) (s : State) : (pushPending t s).reads = s.reads := rfl
@[simp] theorem pushPending_events (t : Region) (s : State) : (pushPending t s).events = s.events := rfl
@[simp] theorem pushPending_responses (t : Region) (s : State) : (pushPending t s).responses = s.responses ++ [regionResponse (coalPush s.coPending t).2] := rfl
@[simp] theorem pushPending_disturbed (t : Region) (s : State) : (pushPending t s).disturbed = s.disturbed := rfl
@[simp] theorem pushPending_freeCount (t : Region) (s : State) : (pushPending t s).freeCount = s.freeCount := rfl

/-! ### flushPending -/

@[simp] theorem flushPending_phase (s : State) : (flushPending s).phase = .idle := rfl
@[simp] theorem flushPending_xlLevel (s : State) : (flushPending s).xlLevel = s.xlLevel := rfl
@[simp] theorem flushPending_xlTable (s : State) : (flushPending s).xlTable = s.xlTable := rfl
@[simp] theorem flushPending_xlVa (s : State) : (flushPending s).xlVa = s.xlVa := rfl
@[simp] theorem flushPending_coPending (s : State) : (flushPending s).coPending = none := rfl
@[simp] theorem flushPending_drShow (s : State) : (flushPending s).drShow = s.drShow := rfl
@[simp] theorem flushPending_drStack (s : State) : (flushPending s).drStack = s.drStack := rfl
@[simp] theorem flushPending_drLoad (s : State) : (flushPending s).drLoad = s.drLoad := rfl
@[simp] theorem flushPending_mem (s : State) : (flushPending s).mem = s.mem := rfl
@[simp] theorem flushPending_accessible (s : State) : (flushPending s).accessible = s.accessible := rfl
@[simp] theorem flushPending_byteOrder (s : State) : (flushPending s).byteOrder = s.byteOrder := rfl
@[simp] theorem flushPending_ctrl (s : State) : (flushPending s).ctrl = s.ctrl := rfl
@[simp] theorem flushPending_inputs (s : State) : (flushPending s).inputs = s.inputs := rfl
@[simp] theorem flushPending_reads (s : State) : (flushPending s).reads = s.reads := rfl
@[simp] theorem flushPending_events (s : State) : (flushPending s).events = s.events := rfl
@[simp] theorem flushPending_responses (s : State) : (flushPending s).responses = s.responses ++ [regionResponse s.coPending] := rfl
@[simp] theorem flushPending_disturbed (s : State) : (flushPending s).disturbed = s.disturbed := rfl
@[simp] theorem flushPending_freeCount (s : State) : (flushPending s).freeCount = s.freeCount := rfl

/-! ### acceptDump -/

@[simp] theorem acceptDump_phase (si : Bool) (base : Word) (l : Level) (voff : Word) (s : State) : (acceptDump si base l voff s).phase = .drun := rfl
@[simp] theorem acceptDump_xlLevel (si : Bool) (base : Word) (l : Level) (voff : Word) (s : State) : (acceptDump si base l voff s).xlLevel = s.xlLevel := rfl
@[simp] theorem acceptDump_xlTable (si : Bool) (base : Word) (l : Level) (voff : Word) (s : State) : (acceptDump si base l voff s).xlTable = s.xlTable := rfl
@[simp] theorem acceptDump_xlVa (si : Bool) (base : Word) (l : Level) (voff : Word) (s : State) : (acceptDump si base l voff s).xlVa = s.xlVa := rfl
@[simp] theorem acceptDump_coPending (si : Bool) (base : Word) (l : Level) (voff : Word) (s : State) : (acceptDump si base l voff s).coPending = s.coPending := rfl
@[simp] theorem acceptDump_drShow (si : Bool) (base : Word) (l : Level) (voff : Word) (s : State) : (acceptDump si base l voff s).drShow = si := rfl
@[simp] theorem acceptDump_drStack (si : Bool) (base : Word) (l : Level) (voff : Word) (s : State) : (acceptDump si base l voff s).drStack = s.drStack := rfl
@[simp] theorem acceptDump_drLoad (si : Bool) (base : Word) (l : Level) (voff : Word) (s : State) : (acceptDump si base l voff s).drLoad = some { base := base, level := l, voff := voff.toNat, got := [] } := rfl
@[simp] theorem acceptDump_mem (si : Bool) (base : Word) (l : Level) (voff : Word) (s : State) : (acceptDump si base l voff s).mem = s.mem := rfl
@[simp] theorem acceptDump_accessible (si : Bool) (base : Word) (l : Level) (voff : Word) (s : State) : (acceptDump si base l voff s).accessible = s.accessible := rfl
@[simp] theorem acceptDump_byteOrder (si : Bool) (base : Word) (l : Level) (voff : Word) (s : State) : (acceptDump si base l voff s).byteOrder = s.byteOrder := rfl
@[simp] theorem acceptDump_ctrl (si : Bool) (base : Word) (l : Level) (voff : Word) (s : State) : (acceptDump si base l voff s).ctrl = s.ctrl := rfl
@[simp] theorem acceptDump_inputs (si : Bool) (base : Word) (l : Level) (voff : Word) (s : State) : (acceptDump si base l voff s).inputs = s.inputs := rfl
@[simp] theorem acceptDump_reads (si : Bool) (base : Word) (l : Level) (voff : Word) (s : State) : (acceptDump si base l voff s).reads = s.reads := rfl
@[simp] theorem acceptDump_events (si : Bool) (base : Word) (l : Level) (voff : Word) (s : State) : (acceptDump si base l voff s).events = s.events := rfl
@[simp] theorem acceptDump_responses (si : Bool) (base : Word) (l : Level) (voff : Word) (s : State) : (acceptDump si base l voff s).responses = s.responses := rfl
@[simp] theorem acceptDump_disturbed (si : Bool) (base : Word) (l : Level) (voff : Word) (s : State) : (acceptDump si base l voff s).disturbed = s.disturbed := rfl
@[simp] theorem acceptDump_freeCount (si : Bool) (base : Word) (l : Level) (voff : Word) (s : State) : (acceptDump si base l voff s).freeCount = s.freeCount := rfl

/-! ### setInputs -/

@[simp] theorem setInputs_phase (ins : List Input) (s : State) : (setInputs ins s).phase = s.phase := rfl
@[simp] theorem setInputs_xlLevel (ins : List Input) (s : State) : (setInputs ins s).xlLevel = s.xlLevel := rfl
@[simp] theorem setInputs_xlTable (ins : List Input) (s : State) : (setInputs ins s).xlTable = s.xlTable := rfl
@[simp] theorem setInputs_xlVa (ins : List Input) (s : State) : (setInputs ins s).xlVa = s.xlVa := rfl
@[simp] theorem setInputs_coPending (ins : List Input) (s : State) : (setInputs ins s).coPending = s.coPending := rfl
@[simp] theorem setInputs_drShow (ins : List Input) (s : State) : (setInputs ins s).drShow = s.drShow := rfl
@[simp] theorem setInputs_drStack (ins : List Input) (s : State) : (setInputs ins s).drStack = s.drStack := rfl
@[simp] theorem setInputs_drLoad (ins : List Input) (s : State) : (setInputs ins s).drLoad = s.drLoad := rfl
@[simp] theorem setInputs_mem (ins : List Input) (s : State) : (setInputs ins s).mem = s.mem := rfl
@[simp] theorem setInputs_accessible (ins : List Input) (s : State) : (setInputs ins s).accessible = s.accessible := rfl
@[simp] theorem setInputs_byteOrder (ins : List Input) (s : State) : (setInputs ins s).byteOrder = s.byteOrder := rfl
@[simp] theorem setInputs_ctrl (ins : List Input) (s : State) : (setInputs ins s).ctrl = s.ctrl := rfl
@[simp] theorem setInputs_inputs (ins : List Input) (s : State) : (setInputs ins s).inputs = ins := rfl
@[simp] theorem setInputs_reads (ins : List Input) (s : State) : (setInputs ins s).reads = s.reads := rfl
@[simp] theorem setInputs_events (ins : List Input) (s : State) : (setInputs ins s).events = s.events := rfl
@[simp] theorem setInputs_responses (ins : List Input) (s : State) : (setInputs ins s).responses = s.responses := rfl
@[simp] theorem setInputs_disturbed (ins : List Input) (s : State) : (setInputs ins s).disturbed = s.disturbed := rfl
@[simp] theorem setInputs_freeCount (ins : List Input) (s : State) : (setInputs ins s).freeCount = s.freeCount := rfl

/-! ### targetChange -/

@[simp] theorem targetChange_phase (m : Memory) (acc : List Range) (s : State) : (targetChange m acc s).phase = s.phase := rfl
@[simp] theorem targetChange_xlLevel (m : Memory) (acc : List Range) (s : State) : (targetChange m acc s).xlLevel = s.xlLevel := rfl
@[simp] theorem targetChange_xlTable (m : Memory) (acc : List Range) (s : State) : (targetChange m acc s).xlTable = s.xlTable := rfl
@[simp] theorem targetChange_xlVa (m : Memory) (acc : List Range) (s : State) : (targetChange m acc s).xlVa = s.xlVa := rfl
@[simp] theorem targetChange_coPending (m : Memory) (acc : List Range) (s : State) : (targetChange m acc s).coPending = s.coPending := rfl
@[simp] theorem targetChange_drShow (m : Memory) (acc : List Range) (s : State) : (targetChange m acc s).drShow = s.drShow := rfl
@[simp] theorem targetChange_drStack (m : Memory) (acc : List Range) (s : State) : (targetChange m acc s).drStack = s.drStack := rfl
@[simp] theorem targetChange_drLoad (m : Memory) (acc : List Range) (s : State) : (targetChange m acc s).drLoad = s.drLoad := rfl
@[simp] theorem targetChange_mem (m : Memory) (acc : List Range) (s : State) : (targetChange m acc s).mem = m := rfl
@[simp] theorem targetChange_accessible (m : Memory) (acc : List Range) (s : State) : (targetChange m acc s).accessible = acc := rfl
@[simp] theorem targetChange_byteOrder (m : Memory) (acc : List Range) (s : State) : (targetChange m acc s).byteOrder = s.byteOrder := rfl
@[simp] theorem targetChange_ctrl (m : Memory) (acc : List Range) (s : State) : (targetChange m acc s).ctrl = s.ctrl := rfl
@[simp] theorem targetChange_inputs (m : Memory) (acc : List Range) (s : State) : (targetChange m acc s).inputs = s.inputs := rfl
@[simp] theorem targetChange_reads (m : Memory) (acc : List Range) (s : State) : (targetChange m acc s).reads = s.reads := rfl
@[simp] theorem targetChange_events (m : Memory) (acc : List Range) (s : State) : (targetChange m acc s).events = s.events := rfl
@[simp] theorem targetChange_responses (m : Memory) (acc : List Range) (s : State) : (targetChange m acc s).responses = s.responses := rfl
@[simp] theorem targetChange_disturbed (m : Memory) (acc : List Range) (s : State) : (targetChange m acc s).disturbed = (s.disturbed || s.busy) := rfl
@[simp] theorem targetChange_freeCount (m : Memory) (acc : List Range) (s : State) : (targetChange m acc s).freeCount = s.freeCount := rfl

/-! ### presentNow -/

@[simp] theorem presentNow_phase (r : Request) (s : State) : (presentNow r s).phase = .idle := rfl
@[simp] theorem presentNow_xlLevel (r : Request) (s : State) : (presentNow r s).xlLevel = s.xlLevel := rfl
@[simp] theorem presentNow_xlTable (r : Request) (s : State) : (presentNow r s).xlTable = s.xlTable := rfl
@[simp] theorem presentNow_xlVa (r : Request) (s : State) : (presentNow r s).xlVa = s.xlVa := rfl
@[simp] theorem presentNow_coPending (r : Request) (s : State) : (presentNow r s).coPending = s.coPending := rfl
@[simp] theorem presentNow_drShow (r : Request) (s : State) : (presentNow r s).drShow = s.drShow := rfl
@[simp] theorem presentNow_drStack (r : Request) (s : State) : (presentNow r s).drStack = [] := rfl
@[simp] theorem presentNow_drLoad (r : Request) (s : State) : (presentNow r s).drLoad = none := rfl
@[simp] theorem presentNow_mem (r : Request) (s : State) : (presentNow r s).mem = s.mem := rfl
@[simp] theorem presentNow_accessible (r : Request) (s : State) : (presentNow r s).accessible = s.accessible := rfl
@[simp] theorem presentNow_byteOrder (r : Request) (s : State) : (presentNow r s).byteOrder = s.byteOrder := rfl
@[simp] theorem presentNow_ctrl (r : Request) (s : State) : (presentNow r s).ctrl = s.ctrl := rfl
@[simp] theorem presentNow_inputs (r : Request) (s : State) : (presentNow r s).inputs = .command r :: s.inputs := rfl
@[simp] theorem presentNow_reads (r : Request) (s : State) : (presentNow r s).reads = s.reads := rfl
@[simp] theorem presentNow_events (r : Request) (s : State) : (presentNow r s).events = s.events := rfl
@[simp] theorem presentNow_responses (r : Request) (s : State) : (presentNow r s).responses = s.responses := rfl
@[simp] theorem presentNow_disturbed (r : Request) (s : State) : (presentNow r s).disturbed = false := rfl
@[simp] theorem presentNow_freeCount (r : Request) (s : State) : (presentNow r s).freeCount = s.freeCount := rfl

/-! ### emitRegion: it appends to the event output alone -/

@[simp] theorem emitRegion_phase (l : Level) (em : Option Region) (s : State) : (emitRegion l em s).phase = s.phase := by
  cases em <;> rfl
@[simp] theorem emitRegion_xlLevel (l : Level) (em : Option Region) (s : State) : (emitRegion l em s).xlLevel = s.xlLevel := by
  cases em <;> rfl
@[simp] theorem emitRegion_xlTable (l : Level) (em : Option Region) (s : State) : (emitRegion l em s).xlTable = s.xlTable := by
  cases em <;> rfl
@[simp] theorem emitRegion_xlVa (l : Level) (em : Option Region) (s : State) : (emitRegion l em s).xlVa = s.xlVa := by
  cases em <;> rfl
@[simp] theorem emitRegion_coPending (l : Level) (em : Option Region) (s : State) : (emitRegion l em s).coPending = s.coPending := by
  cases em <;> rfl
@[simp] theorem emitRegion_drShow (l : Level) (em : Option Region) (s : State) : (emitRegion l em s).drShow = s.drShow := by
  cases em <;> rfl
@[simp] theorem emitRegion_drStack (l : Level) (em : Option Region) (s : State) : (emitRegion l em s).drStack = s.drStack := by
  cases em <;> rfl
@[simp] theorem emitRegion_drLoad (l : Level) (em : Option Region) (s : State) : (emitRegion l em s).drLoad = s.drLoad := by
  cases em <;> rfl
@[simp] theorem emitRegion_mem (l : Level) (em : Option Region) (s : State) : (emitRegion l em s).mem = s.mem := by
  cases em <;> rfl
@[simp] theorem emitRegion_accessible (l : Level) (em : Option Region) (s : State) : (emitRegion l em s).accessible = s.accessible := by
  cases em <;> rfl
@[simp] theorem emitRegion_byteOrder (l : Level) (em : Option Region) (s : State) : (emitRegion l em s).byteOrder = s.byteOrder := by
  cases em <;> rfl
@[simp] theorem emitRegion_ctrl (l : Level) (em : Option Region) (s : State) : (emitRegion l em s).ctrl = s.ctrl := by
  cases em <;> rfl
@[simp] theorem emitRegion_inputs (l : Level) (em : Option Region) (s : State) : (emitRegion l em s).inputs = s.inputs := by
  cases em <;> rfl
@[simp] theorem emitRegion_reads (l : Level) (em : Option Region) (s : State) : (emitRegion l em s).reads = s.reads := by
  cases em <;> rfl
@[simp] theorem emitRegion_responses (l : Level) (em : Option Region) (s : State) : (emitRegion l em s).responses = s.responses := by
  cases em <;> rfl
@[simp] theorem emitRegion_disturbed (l : Level) (em : Option Region) (s : State) : (emitRegion l em s).disturbed = s.disturbed := by
  cases em <;> rfl
@[simp] theorem emitRegion_freeCount (l : Level) (em : Option Region) (s : State) : (emitRegion l em s).freeCount = s.freeCount := by
  cases em <;> rfl
@[simp] theorem emitRegion_none (l : Level) (s : State) : emitRegion l none s = s := rfl
@[simp] theorem emitRegion_some (l : Level) (q : Region) (s : State) :
    emitRegion l (some q) s = emit (.region l q.vs q.ve q.ps q.fl) s := rfl

end Sys2Proof.Machine
end

