-- ==== Sys2Proof/Laws/Ops.lean ====
section
/-! SUPPORT. One lemma for each shared operation, saying once what it can do: proofs cite these instead of unfolding it. -/

namespace Sys2Proof.Machine

/-! ### Levels and addresses -/

@[simp] theorem span_l0 : span .l0 = 2 ^ 30 := rfl
@[simp] theorem span_l1 : span .l1 = 2 ^ 21 := rfl
@[simp] theorem span_l2 : span .l2 = 2 ^ 12 := rfl

theorem span_pos (l : Level) : 0 < span l := by cases l <;> decide

/-- One entry of a table covers what the whole table below it covers. -/
theorem entries_mul_span_next {l l' : Level} (h : l.next? = some l') :
    Config.entries * span l' = span l := by
  cases l <;> simp only [Level.next?, Option.some.injEq, reduceCtorEq] at h <;> subst h <;> rfl

/-- A table covers at most the 39-bit virtual space. -/
theorem entries_mul_span_le (l : Level) : Config.entries * span l ≤ 2 ^ 39 := by cases l <;> decide

theorem entryStart_succ (voff : Nat) (l : Level) (i : Nat) :
    entryStart voff l (i + 1) = entryStart voff l i + span l := by
  unfold entryStart
  rw [Nat.add_mul]
  omega

theorem physOfPpn_lt (p : Ppn) : physOfPpn p < 2 ^ 56 := by
  have h : p.toNat < 2 ^ 44 := p.isLt
  unfold physOfPpn Config.pageSize
  omega

/-- A child's base register holds its address exactly. -/
theorem childBase_toNat (raw : Word) : (childBase raw).toNat = physOfPpn (ptePpn raw) := by
  have := physOfPpn_lt (ptePpn raw)
  unfold childBase
  rw [BitVec.toNat_ofNat, Nat.mod_eq_of_lt (by omega)]

theorem vaIndex_lt (va : Word) (l : Level) : (vaIndex va l).toNat < 512 := (vaIndex va l).isLt

/-! ### Acceptance -/

theorem accept_idle {s : State} (h : s.phase = .idle) (run : State → State) :
    accept s run = .next (run s) := by
  unfold accept
  rw [h]

theorem accept_busy {s : State} (h : s.phase ≠ .idle) (run : State → State) : accept s run = .next s := by
  unfold accept
  cases hp : s.phase
  · exact absurd hp h
  · rfl
  · rfl

/-- Acceptance always answers a next state: the run one from IDLE, the same one while the block is busy. -/
theorem accept_cases (s : State) (run : State → State) :
    (s.phase = .idle ∧ accept s run = .next (run s)) ∨ (s.phase ≠ .idle ∧ accept s run = .next s) := by
  by_cases h : s.phase = .idle
  · exact .inl ⟨h, accept_idle h run⟩
  · exact .inr ⟨h, accept_busy h run⟩

/-! ### ReadEntry -/

/-- All that a read can do: no request for an address that is not below 2^64; else one request, answered by the target, or by a draw
while the target is changing. -/
theorem readEntry_cases (pa : Nat) (s : State) :
    (2 ^ 64 ≤ pa ∧ readEntry pa s = (none, s)) ∨
    (pa < 2 ^ 64 ∧ s.disturbed = true ∧
      readEntry pa s = (Config.draw s.freeCount, useFree (noteRead pa s))) ∨
    (pa < 2 ^ 64 ∧ s.disturbed = false ∧ readEntry pa s = (s.entryAt pa, noteRead pa s)) := by
  unfold readEntry
  by_cases h : pa < 2 ^ 64
  · rw [if_pos h]
    cases hd : s.disturbed
    · exact .inr (.inr ⟨h, rfl, by simp⟩)
    · exact .inr (.inl ⟨h, rfl, by simp⟩)
  · rw [if_neg h]
    exact .inl ⟨by omega, rfl⟩

/-- What a read leaves alone, whatever its answer: it changes the request log and the free-value counter only. -/
theorem readEntry_state (pa : Nat) (s : State) :
    (readEntry pa s).2 = { s with
      reads := (readEntry pa s).2.reads, freeCount := (readEntry pa s).2.freeCount } := by
  rcases readEntry_cases pa s with ⟨-, h⟩ | ⟨-, -, h⟩ | ⟨-, -, h⟩ <;> rw [h] <;> rfl

theorem entryAt_top {s : State} {pa : Nat} (h : 2 ^ 64 ≤ pa) : s.entryAt pa = none := by
  unfold State.entryAt
  rw [if_neg (by omega)]

/-- With a target that holds still, a read answers what the target holds and its request is the one of `requestFor`. -/
theorem readEntry_still {s : State} (h : s.disturbed = false) (pa : Nat) :
    readEntry pa s = (s.entryAt pa, { s with reads := s.reads ++ requestFor pa }) := by
  unfold requestFor
  rcases readEntry_cases pa s with ⟨hp, he⟩ | ⟨-, hd, -⟩ | ⟨hp, -, he⟩
  · rw [he, if_neg (by omega), List.append_nil, entryAt_top hp]
  · rw [h] at hd
    cases hd
  · rw [he, if_pos hp]
    rfl

/-! ### The coalescer -/

theorem mergeable_iff (q t : Region) : mergeable q t = true ↔ adjacent q t := by
  simp [mergeable, adjacent, and_assoc]

/-- All that a push can do (42_coalescer R130). -/
theorem coalPush_cases (p : Option Region) (t : Region) :
    (p = none ∧ coalPush p t = (some t, none)) ∨
    (∃ q, p = some q ∧ adjacent q t ∧
      coalPush p t = (some { vs := q.vs, ve := t.ve, ps := q.ps, fl := q.fl }, none)) ∨
    (∃ q, p = some q ∧ ¬ adjacent q t ∧ coalPush p t = (some t, some q)) := by
  cases p with
  | none => exact .inl ⟨rfl, rfl⟩
  | some q =>
    by_cases h : mergeable q t = true
    · exact .inr (.inl ⟨q, rfl, (mergeable_iff q t).1 h, by simp [coalPush, h]⟩)
    · exact .inr (.inr ⟨q, rfl, fun ha => h ((mergeable_iff q t).2 ha), by simp [coalPush, h]⟩)

@[simp] theorem coalFlush_fst (p : Option Region) : (coalFlush p).1 = none := rfl
@[simp] theorem coalFlush_snd (p : Option Region) : (coalFlush p).2 = p := rfl

/-- The events of an emitted region are those of `regionEvents`. -/
theorem emitRegion_events (l : Level) (em : Option Region) (s : State) :
    (emitRegion l em s).events = s.events ++ regionEvents l em := by
  cases em <;> simp [regionEvents]

/-- Emitting a region changes the event output alone. -/
theorem emitRegion_eq (l : Level) (em : Option Region) (s : State) :
    emitRegion l em s = { s with events := s.events ++ regionEvents l em } := by
  cases em
  · simp [regionEvents]
  · rfl

/-! ### The walk step -/

/-- All that the handling of a walked entry can do (41_translator R112). -/
theorem walkEntry_cases (raw : Word) (s : State) :
    (∃ l, pteKind raw = .directory ∧ s.xlLevel.next? = some l ∧
      walkEntry raw s = { s with xlTable := childBase raw, xlLevel := l }) ∨
    (∃ r, walkEntry raw s = endCommand r s ∧
      ((pteKind raw = .invalid ∧ r = { status := .unmapped }) ∨
       (pteKind raw = .leaf ∧ r = { status := .ok, r0 := leafPhys raw s.xlVa, r1 := (pteFlags raw).toNat }) ∨
       (pteKind raw = .directory ∧ s.xlLevel.next? = none ∧ r = { status := .malformed }))) := by
  unfold walkEntry
  cases hk : pteKind raw
  · exact .inr ⟨_, rfl, .inl ⟨rfl, rfl⟩⟩
  · exact .inr ⟨_, rfl, .inr (.inl ⟨rfl, rfl⟩)⟩
  · cases hl : s.xlLevel.next? with
    | none => exact .inr ⟨_, rfl, .inr (.inr ⟨rfl, rfl, rfl⟩)⟩
    | some l => exact .inl ⟨l, rfl, rfl, rfl⟩

/-- All that a walk step can do: a failed read is the error, a read word is handled by its kind. -/
theorem walkStep_cases (s : State) :
    ((readEntry (walkAddr s) s).1 = none ∧
      walkStep s = raiseHostMemoryError (walkAddr s) (readEntry (walkAddr s) s).2) ∨
    (∃ raw, (readEntry (walkAddr s) s).1 = some raw ∧
      walkStep s = walkEntry raw (readEntry (walkAddr s) s).2) := by
  unfold walkStep
  rcases h : readEntry (walkAddr s) s with ⟨_ | raw, s'⟩
  · exact .inl ⟨rfl, rfl⟩
  · exact .inr ⟨raw, rfl, rfl⟩

/-! ### The scan step -/

/-- All that a read of a table can do. -/
theorem loadStep_cases (ld : Loading) (s : State) :
    ((readEntry (loadAddr ld) s).1 = none ∧
      loadStep ld s = raiseHostMemoryError (loadAddr ld) (readEntry (loadAddr ld) s).2) ∨
    (∃ raw, (readEntry (loadAddr ld) s).1 = some raw ∧
      loadStep ld s = storeEntry ld raw (readEntry (loadAddr ld) s).2) := by
  unfold loadStep
  rcases h : readEntry (loadAddr ld) s with ⟨_ | raw, s'⟩
  · exact .inl ⟨rfl, rfl⟩
  · exact .inr ⟨raw, rfl, rfl⟩

/-- All that storing a read entry can do: the table goes on being read, or its frame is pushed. -/
theorem storeEntry_cases (ld : Loading) (raw : Word) (s : State) :
    (ld.got.length + 1 < Config.entries ∧
      storeEntry ld raw s = { s with drLoad := some { ld with got := ld.got ++ [raw] } }) ∨
    (Config.entries ≤ ld.got.length + 1 ∧
      storeEntry ld raw s =
        { s with
          drLoad := none
          drStack :=
            { base := ld.base, level := ld.level, voff := ld.voff, tbl := ld.got ++ [raw], idx := 0, coal := none } ::
              s.drStack }) := by
  unfold storeEntry
  simp only [List.length_append, List.length_singleton]
  split
  · rename_i h
    exact .inl ⟨h, rfl⟩
  · rename_i h
    exact .inr ⟨by omega, rfl⟩

/-- All that a step of the top frame can do: the table ends, or the entry is skipped or scanned. -/
theorem frameStep_cases (f : Frame) (below : List Frame) (s : State) :
    (f.tbl[f.idx]? = none ∧ frameStep f below s = endTable f below s) ∨
    (∃ raw, f.tbl[f.idx]? = some raw ∧ processed s.drShow raw = false ∧
      frameStep f below s = { s with drStack := advance f f.coal :: below }) ∨
    (∃ raw, f.tbl[f.idx]? = some raw ∧ processed s.drShow raw = true ∧
      frameStep f below s = scanEntry f below raw s) := by
  unfold frameStep
  cases h : f.tbl[f.idx]? with
  | none => exact .inl ⟨rfl, rfl⟩
  | some raw =>
    by_cases hp : processed s.drShow raw = true
    · exact .inr (.inr ⟨raw, rfl, hp, by simp [hp]⟩)
    · exact .inr (.inl ⟨raw, rfl, by simpa using hp, by simp [hp]⟩)

/-- All that a step of a DUMP can do. -/
theorem scanStep_cases (s : State) :
    (∃ ld, s.drLoad = some ld ∧ scanStep s = .next (loadStep ld s)) ∨
    (∃ f below, s.drLoad = none ∧ s.drStack = f :: below ∧ scanStep s = .next (frameStep f below s)) ∨
    (s.drLoad = none ∧ s.drStack = [] ∧ scanStep s = .fault .scanWithoutFrame) := by
  unfold scanStep
  cases hl : s.drLoad with
  | some ld => exact .inl ⟨ld, rfl, rfl⟩
  | none =>
    cases hs : s.drStack with
    | cons f below => exact .inr (.inl ⟨f, below, rfl, rfl, rfl⟩)
    | nil => exact .inr (.inr ⟨rfl, rfl, rfl⟩)

end Sys2Proof.Machine
end

