-- ==== Sys2Proof/Laws/PerInstr.lean ====
section
/-! SUPPORT. A statement made instruction by instruction: the word of every command is well formed (spec/30_encoding.md rule R73). -/

namespace Sys2Proof.Laws.LegalWord

/-- The command's word passes the four checks of a legal word. -/
def Statement (i : Instr) : Prop := wellFormedWord (encodeWord i) = true

theorem ptedec (raw : Word) : Statement (.ptedec raw) :=
  (by decide : wellFormedWord 0x00 = true)
theorem vasplit (va : Word) : Statement (.vasplit va) :=
  (by decide : wellFormedWord 0x01 = true)
theorem rootdec (ctrl : Word) : Statement (.rootdec ctrl) :=
  (by decide : wellFormedWord 0x02 = true)
theorem xlate (root va : Word) : Statement (.xlate root va) :=
  (by decide : wellFormedWord 0x03 = true)
theorem cpush (vs ve ps d : Word) : Statement (.cpush vs ve ps d) :=
  (by decide : wellFormedWord 0x04 = true)
theorem cflush : Statement .cflush :=
  (by decide : wellFormedWord 0x05 = true)
theorem dumpL0 (si : Bool) (base voff : Word) : Statement (.dumpL0 si base voff) :=
  (by cases si <;> decide : wellFormedWord (0x06 ||| showBit si) = true)
theorem dumpL1 (si : Bool) (base voff : Word) : Statement (.dumpL1 si base voff) :=
  (by cases si <;> decide : wellFormedWord (0x16 ||| showBit si) = true)
theorem dumpL2 (si : Bool) (base voff : Word) : Statement (.dumpL2 si base voff) :=
  (by cases si <;> decide : wellFormedWord (0x26 ||| showBit si) = true)

end Sys2Proof.Laws.LegalWord
end

