-- ==== Sys2Proof/Tests/Slice0.lean ====
section
/-! SUPPORT. Tests: the smoke test of WellFormed, words written out from spec/30_encoding.md rule R73, one-step tests whose expected
results are the vectors of spec/95_test_vectors.md (their ids are in the comments), and a witness for every statement with hypotheses. -/

namespace Sys2Proof.Tests
open Sys2Proof Sys2Proof.Machine

/-! ### Helpers -/

/-- A property of the next state; false where there is none. -/
def next (o : Host.Outcome State Fault Refusal) (p : State → Bool) : Bool :=
  match o with
  | .next t => p t
  | .fault _ => false
  | .refused _ => false

/-- The idle block with one command presented. -/
def present (r : Request) : State := { State.reset with inputs := [.command r] }

/-- The source's tables of EX-6: 0x1000 holds 0x801, 0x2000 holds 0x1407, and [0x1000, 0x3000) is readable. -/
def ex6 : State :=
  { State.reset with
    mem := [(0x1000, 0x01), (0x1001, 0x08), (0x2000, 0x07), (0x2001, 0x14)]
    accessible := [⟨0x1000, 0x3000⟩] }

/-- A walk in progress over EX-6. -/
def walking (l : Level) (table va : Word) : State :=
  { ex6 with phase := .xwalk, xlLevel := l, xlTable := table, xlVa := va }

/-- A region pending, as the vectors CO-02 to CO-13 start. -/
def pending (q : Region) : State := { State.reset with coPending := some q }

/-- A frame over a table whose entries are `raw`, then zeros. -/
def frame (l : Level) (raw : Word) (idx : Nat) (c : Option Region) : Frame :=
  { base := 0x1000, level := l, voff := 0, tbl := raw :: List.replicate 511 0, idx := idx, coal := c }

/-- A scan in progress with these frames. -/
def scanning (si : Bool) (fs : List Frame) : State := { State.reset with phase := .drun, drShow := si, drStack := fs }

/-- A table being read over EX-6, `n` entries of it done. -/
def loading (base : Word) (n : Nat) : Loading := { base := base, level := .l2, voff := 0, got := List.replicate n 0 }

/-- That table's state. -/
def reading (base : Word) (n : Nat) : State := { ex6 with phase := .drun, drLoad := some (loading base n) }

/-! ### WellFormed: an ill-formed word for each check, which that check and the decoder refuse -/

theorem test_reserved_bits_refused : reservedClear 0x46 = false ∧ wellFormedWord 0x46 = false := by decide
theorem test_opcode_seven_refused : opcodeAssigned 0x07 = false ∧ wellFormedWord 0x07 = false := by decide
theorem test_level_three_refused : dumpLevelLegal 0x36 = false ∧ wellFormedWord 0x36 = false := by decide
theorem test_stray_fields_refused : fieldsUnusedClear 0x13 = false ∧ wellFormedWord 0x13 = false := by decide
theorem test_request_refused : Request.wellFormed ⟨0x80, 0, 0, 0, 0⟩ = false := by decide
/-- CW-04, CW-05, CW-07, CW-08. -/
theorem test_decoder_rejects_by_name :
    decode ⟨0x07, 0, 0, 0, 0⟩ = .error .opcodeSeven ∧ decode ⟨0x08, 0, 0, 0, 0⟩ = .error .strayFields ∧
    decode ⟨0x3E, 0, 0, 0, 0⟩ = .error .levelThree ∧ decode ⟨0xFF, 0, 0, 0, 0⟩ = .error .reservedBits := by decide
/-- CW-09: the well-formed words are those that decode. -/
theorem test_wellFormed_is_decodable :
    ∀ w : Byte, wellFormedWord w = (decodeTableWord 8 w.toNat).isSome := by decide
theorem test_memory_canonical_form :
    Memory.wf [(2, 1), (1, 1)] = false ∧ Memory.wf [(1, 0)] = false ∧ Memory.wf [(2 ^ 64, 1)] = false ∧
    Memory.wf ex6.mem = true := by decide

/-! ### Decode: each row's word, written out from R73, with buses -/

theorem test_decode_ptedec : decode ⟨0b00000000, 0x1407, 9, 9, 9⟩ = .ok (.ptedec 0x1407) := by decide
theorem test_decode_vasplit : decode ⟨0b00000001, 0x123, 9, 9, 9⟩ = .ok (.vasplit 0x123) := by decide
theorem test_decode_rootdec : decode ⟨0b00000010, 1, 9, 9, 9⟩ = .ok (.rootdec 1) := by decide
theorem test_decode_xlate : decode ⟨0b00000011, 0x1000, 0x123, 9, 9⟩ = .ok (.xlate 0x1000 0x123) := by decide
theorem test_decode_cpush : decode ⟨0b00000100, 1, 2, 3, 4⟩ = .ok (.cpush 1 2 3 4) := by decide
theorem test_decode_cflush : decode ⟨0b00000101, 9, 9, 9, 9⟩ = .ok .cflush := by decide
theorem test_decode_dumpL0 :
    decode ⟨0b00000110, 1, 2, 9, 9⟩ = .ok (.dumpL0 false 1 2) ∧
    decode ⟨0b00001110, 1, 2, 9, 9⟩ = .ok (.dumpL0 true 1 2) := by decide
theorem test_decode_dumpL1 :
    decode ⟨0b00010110, 1, 2, 9, 9⟩ = .ok (.dumpL1 false 1 2) ∧
    decode ⟨0b00011110, 1, 2, 9, 9⟩ = .ok (.dumpL1 true 1 2) := by decide
theorem test_decode_dumpL2 :
    decode ⟨0b00100110, 1, 2, 9, 9⟩ = .ok (.dumpL2 false 1 2) ∧
    decode ⟨0b00101110, 1, 2, 9, 9⟩ = .ok (.dumpL2 true 1 2) := by decide

/-! ### One step of each command -/

/-- PD-05. -/
theorem test_ptedec_all_ones :
    next (step (present ⟨0x00, 0xFFFFFFFFFFFFFFFF, 0, 0, 0⟩)) (fun t =>
      t.responses == [{ status := .ok, r0 := 0x3FF, r1 := 0xFFFFFFFFFFF, r2 := 1 }]) = true := by decide
/-- PD-10. -/
theorem test_ptedec_directory_with_flags :
    next (step (present ⟨0x00, 0xF1, 0, 0, 0⟩)) (fun t =>
      t.responses == [{ status := .ok, r0 := 0xF1, r1 := 0, r2 := 2 }]) = true := by decide
/-- VA-04. -/
theorem test_vasplit_one_in_each :
    next (step (present ⟨0x01, 0x40201456, 0, 0, 0⟩)) (fun t =>
      t.responses == [{ status := .ok, r0 := 1, r1 := 1, r2 := 1, r3 := 0x456 }]) = true := by decide
/-- VA-06. -/
theorem test_vasplit_bit_38 :
    next (step (present ⟨0x01, 0x4000000000, 0, 0, 0⟩)) (fun t =>
      t.responses == [{ status := .ok, r0 := 0x100 }]) = true := by decide
/-- RD-02. -/
theorem test_rootdec_enabled :
    next (step (present ⟨0x02, 0x8FFFF00000080000, 0, 0, 0⟩)) (fun t =>
      t.responses == [{ status := .ok, r0 := 0x80000000, r1 := 0xFFFF, r2 := 8, r3 := 0x80000 }]) = true := by decide
/-- RD-04. -/
theorem test_rootdec_unsupported :
    next (step (present ⟨0x02, 0x9000000000000001, 0, 0, 0⟩)) (fun t =>
      t.responses == [{ status := .unsupportedMode, r0 := 0x1000, r1 := 0, r2 := 9, r3 := 1 }]) = true := by decide
/-- R111's example. -/
theorem test_xlate_latches :
    next (step (present ⟨0x03, 0x1000, 0x123, 0, 0⟩)) (fun t =>
      t.phase == .xwalk && t.xlTable == 0x1000 && t.xlVa == 0x123 && t.xlLevel == .l0 && t.responses == []) = true := by
  decide
/-- EX-6, the first read. -/
theorem test_walk_follows_directory :
    next (step (walking .l0 0x1000 0x123)) (fun t =>
      t.reads == [0x1000] && t.xlTable == 0x2000 && t.xlLevel == .l1 && t.phase == .xwalk) = true := by decide
/-- P1 step 3, the second read: a leaf at level 1 adds the 12-bit offset only. -/
theorem test_walk_leaf_offset_only :
    next (step (walking .l1 0x2000 0x1123)) (fun t =>
      t.reads == [0x2000] && t.responses == [{ status := .ok, r0 := 0x5123, r1 := 7 }] && t.phase == .idle) = true := by
  decide
/-- XL-13: the entry address reaches 2^64, and no request is made. -/
theorem test_walk_beyond_top :
    next (step (walking .l0 0xFFFFFFFFFFFFFFF8 0x40000000)) (fun t =>
      t.reads == [] && t.responses == [{ status := .hostMemoryError, r0 := 2 ^ 64 }]) = true := by decide
/-- CO-03. -/
theorem test_cpush_breaks :
    next (exec (.cpush 0x1000 0x2000 0x5000 0x7) (pending ⟨0, 0x1000, 0x5000, 7⟩)) (fun t =>
      t.responses == [{ status := .ok, e := true, r0 := 0, r1 := 0x1000, r2 := 0x5000, r3 := 7 }] &&
      t.coPending == some ⟨0x1000, 0x2000, 0x5000, 7⟩) = true := by decide
/-- CO-12 and CO-09: D's high bits are ignored, and the arithmetic is exact. -/
theorem test_cpush_merges_exactly :
    next (exec (.cpush 0x1000 0x2000 0x6000 0xFFFFFFFFFFFFFC07) (pending ⟨0, 0x1000, 0x5000, 7⟩)) (fun t =>
      t.responses == [{ status := .ok }] && t.coPending == some ⟨0, 0x2000, 0x5000, 7⟩) = true ∧
    next (exec (.cpush 0x1000 0x2000 0 0x7) (pending ⟨0, 0x1000, 0xFFFFFFFFFFFFF000, 7⟩)) (fun t =>
      t.coPending == some ⟨0x1000, 0x2000, 0, 7⟩) = true := by decide
/-- CO-07. -/
theorem test_cflush_emits :
    next (exec .cflush (pending ⟨0, 0x2000, 0x5000, 7⟩)) (fun t =>
      t.responses == [{ status := .ok, e := true, r0 := 0, r1 := 0x2000, r2 := 0x5000, r3 := 7 }] &&
      t.coPending == none) = true := by decide
/-- CO-06. -/
theorem test_cflush_nothing :
    next (exec .cflush State.reset) (fun t => t.responses == [{ status := .ok }] && t.coPending == none) = true := by decide
theorem test_dumpL0_begins :
    next (step (present ⟨0x0E, 0x1000, 0x5000, 0, 0⟩)) (fun t =>
      t.phase == .drun && t.drShow && t.drLoad == some ⟨0x1000, .l0, 0x5000, []⟩) = true := by decide
theorem test_dumpL1_begins :
    next (step (present ⟨0x16, 0x7000, 0, 0, 0⟩)) (fun t =>
      t.phase == .drun && !t.drShow && t.drLoad == some ⟨0x7000, .l1, 0, []⟩) = true := by decide
theorem test_dumpL2_begins :
    next (step (present ⟨0x26, 0x1000, 0xFFFFFFFFFFFFF000, 0, 0⟩)) (fun t =>
      t.drLoad == some ⟨0x1000, .l2, 0xFFFFFFFFFFFFF000, []⟩) = true := by decide
/-- DU-03, its second record: a Directory at level 2 flushes and is MALFORMED, with addresses past 2^64. -/
theorem test_scan_malformed :
    next (step (scanning false [⟨0x1000, .l2, 0xFFFFFFFFFFFFF000, [7, 0x801], 1,
      some ⟨0xFFFFFFFFFFFFF000, 2 ^ 64, 0, 7⟩⟩])) (fun t =>
      t.events == [.region .l2 0xFFFFFFFFFFFFF000 (2 ^ 64) 0 7, .malformed .l2 1 (2 ^ 64) 0x801]) = true := by decide
/-- DU-01, its first two records: the Directory between two leaves flushes, and its child is entered. -/
theorem test_scan_directory :
    next (step (scanning false [⟨0x7000, .l1, 0, [0x80007, 0x2001], 1,
      some ⟨0, 0x200000, 0x200000, 7⟩⟩])) (fun t =>
      t.events == [.region .l1 0 0x200000 0x200000 7, .dir .l1 1 0x200000 0x8000] &&
      t.drLoad == some ⟨0x8000, .l2, 0x200000, []⟩) = true := by decide
/-- A command presented first after reset is the one that runs (the host's question). -/
theorem test_withFetchWord_runs :
    next (step (State.reset.withFetchWord 8 0x26)) (fun t =>
      t.phase == .drun && t.drLoad == some ⟨0, .l2, 0, []⟩) = true := by decide
/-- R85, R87. -/
theorem test_assemble :
    assemble "XLATE 0x1000, 291".toList = some (.command ⟨0x03, 0x1000, 0x123, 0, 0⟩) ∧
    assemble "dump.l1.i 0x7000, 0".toList = some (.command ⟨0x1E, 0x7000, 0, 0, 0⟩) ∧
    assemble "ptedec 18446744073709551616".toList = none := by decide
/-- R86, with log 18: a `.i` joined or alone, in either case. -/
theorem test_assemble_show :
    assemble "DUMPCUR.I".toList = some (.pseudo (.dumpcur true)) ∧
    assemble "DUMPCUR .I".toList = some (.pseudo (.dumpcur true)) ∧
    assemble "dumpat .i 0x1000".toList = some (.pseudo (.dumpat true 0x1000)) ∧
    assemble "DUMPAT 0x1000".toList = some (.pseudo (.dumpat false 0x1000)) := by decide

/-! ### Witnesses: states and operands that meet the hypotheses of each statement -/

theorem witness_OnlyLegalWordsAreCommands :
    (present ⟨0x07, 0, 0, 0, 0⟩).phase = .idle ∧
    (present ⟨0x07, 0, 0, 0, 0⟩).inputs = .command ⟨0x07, 0, 0, 0, 0⟩ :: [] ∧
    (0x07 : Byte) ∉ ([0x00, 0x01, 0x02, 0x03, 0x04, 0x05, 0x06, 0x0E, 0x16, 0x1E, 0x26, 0x2E] : List Byte) := by decide
theorem witness_StepRunsTheDecodedCommand :
    (present ⟨0x05, 0, 0, 0, 0⟩).phase = .idle ∧
    (present ⟨0x05, 0, 0, 0, 0⟩).inputs = .command ⟨0x05, 0, 0, 0, 0⟩ :: [] ∧
    decode ⟨0x05, 0, 0, 0, 0⟩ = .ok .cflush := by decide
/-- For PTEDEC, VASPLIT, ROOTDEC, XLATE, the three DUMP rows and IdleBlockWaits. -/
theorem witness_idle : State.reset.phase = .idle ∧ State.reset.inputs = [] := by decide
theorem witness_CpushMergesOrEmits_absent : State.reset.phase = .idle ∧ State.reset.coPending = none := by decide
theorem witness_CpushMergesOrEmits_merge :
    (pending ⟨0, 0x1000, 0x5000, 7⟩).phase = .idle ∧
    (pending ⟨0, 0x1000, 0x5000, 7⟩).coPending = some ⟨0, 0x1000, 0x5000, 7⟩ ∧
    (0x1000 = (0x1000 : Word).toNat ∧ (7 : FlagSet) = (0x7 : Word).extractLsb' 0 10 ∧
      ((0x5000 : Nat) : Int) + (((0x1000 : Nat) : Int) - ((0 : Nat) : Int)) = (((0x6000 : Word).toNat : Nat) : Int)) := by
  decide
/-- CO-09, at the boundary where 64-bit arithmetic would wrap. -/
theorem witness_CpushMergesOrEmits_emit :
    (pending ⟨0, 0x1000, 0xFFFFFFFFFFFFF000, 7⟩).coPending = some ⟨0, 0x1000, 0xFFFFFFFFFFFFF000, 7⟩ ∧
    ¬ (((0xFFFFFFFFFFFFF000 : Nat) : Int) + (((0x1000 : Nat) : Int) - ((0 : Nat) : Int)) =
        (((0 : Word).toNat : Nat) : Int)) := by decide
theorem witness_CflushEmitsThePending :
    State.reset.coPending = none ∧ (pending ⟨0, 0x2000, 0x5000, 7⟩).phase = .idle ∧
    (pending ⟨0, 0x2000, 0x5000, 7⟩).coPending = some ⟨0, 0x2000, 0x5000, 7⟩ := by decide
/-- R136's two tuples. -/
theorem witness_CoalescerEmitsMaximalRuns :
    orderedTuples [⟨0, 0x1000, 0x5000, 7⟩, ⟨0x1000, 0x2000, 0x6000, 7⟩] := by
  simp [orderedTuples]
/-- Each clause at a boundary: the first readable address, the first unreadable one after the range, and 2^64. -/
theorem witness_ReadEntryAsksTheAccessorOnce :
    ex6.disturbed = false ∧
    (0x1000 < 2 ^ 64 ∧ ∃ r ∈ ex6.accessible, r.lo ≤ 0x1000 ∧ 0x1000 < r.hi) ∧
    (0x3000 < 2 ^ 64 ∧ ¬ ∃ r ∈ ex6.accessible, r.lo ≤ 0x3000 ∧ 0x3000 < r.hi) ∧ (2 ^ 64 ≤ 2 ^ 64) := by
  simp [ex6, State.reset]
theorem witness_EntryBytesFollowTheByteOrder : 0 < 8 ∧ 7 < 8 := by decide
theorem witness_BlockWritesNoMemory :
    (∃ t, step (walking .l0 0x1000 0x123) = .next t) ∧
    ∀ cells rest, (walking .l0 0x1000 0x123).inputs ≠ .targetStore cells :: rest :=
  ⟨⟨_, rfl⟩, fun _ _ h => nomatch h⟩
theorem witness_ChangingTargetMakesReadsDraws :
    ({ State.reset with inputs := [.targetStore [(0x1000, 1)]] } : State).phase = .idle ∧
    ({ State.reset with inputs := [.targetStore [(0x1000, 1)]] } : State).disturbed = false ∧
    ({ walking .l0 0x1000 0 with inputs := [.targetStore [(0x1000, 1)]] } : State).phase ≠ .idle ∧
    ({ walking .l0 0x1000 0 with disturbed := true } : State).disturbed = true ∧ 2 ^ 64 - 1 < 2 ^ 64 := by decide
theorem witness_WalkStepReadsOneEntry_fails :
    (walking .l0 0x9000 0).phase = .xwalk ∧ (walking .l0 0x9000 0).disturbed = false ∧
    (walking .l0 0x9000 0).inputs = [] ∧ (walking .l0 0x9000 0).entryAt 0x9000 = none := by decide
theorem witness_WalkStepReadsOneEntry_invalid :
    (walking .l2 0x1010 0).entryAt 0x1010 = some 0 ∧ pteKind 0 = .invalid := by decide
theorem witness_WalkStepReadsOneEntry_leaf :
    (walking .l1 0x2000 0x123).entryAt 0x2000 = some 0x1407 ∧ pteKind 0x1407 = .leaf := by decide
theorem witness_WalkStepReadsOneEntry_malformed :
    (walking .l2 0x1000 0).entryAt 0x1000 = some 0x801 ∧ pteKind 0x801 = .directory ∧
    (walking .l2 0x1000 0).xlLevel = .l2 := by decide
theorem witness_WalkStepReadsOneEntry_next :
    (walking .l1 0x1000 0).entryAt 0x1000 = some 0x801 ∧ pteKind 0x801 = .directory ∧
    (walking .l1 0x1000 0).xlLevel.next? = some .l2 := by decide
theorem witness_WalkLeavesOnlyWithAResponse :
    (walking .l1 0x2000 0).phase = .xwalk ∧ ∃ t, step (walking .l1 0x2000 0) = .next t := ⟨rfl, _, rfl⟩
theorem witness_XlateIsTranslate :
    ex6.phase = .idle ∧ ex6.disturbed = false ∧ ex6.inputs = [] ∧
    (∀ pa, 2 ^ 64 ≤ pa → ex6.entryAt pa = none ∧ ex6.entryAt pa = none) ∧
    (0x123 : Word).toNat % 2 ^ 39 = (0xFFFFFF8000000123 : Word).toNat % 2 ^ 39 :=
  ⟨rfl, rfl, rfl, fun _ h => ⟨entryAt_top h, entryAt_top h⟩, by decide⟩
theorem loading_length (base : Word) (n : Nat) : (loading base n).got.length = n := List.length_replicate
theorem frame_length (l : Level) (raw : Word) (idx : Nat) (c : Option Region) : (frame l raw idx c).tbl.length = 512 := by
  show (raw :: List.replicate 511 0).length = 512
  rw [List.length_cons, List.length_replicate]
theorem reading_entry (base : Word) (n : Nat) (v : Option Word) (h : ex6.entryAt (base.toNat + 8 * n) = v) :
    (reading base n).entryAt (base.toNat + 8 * n) = v := h
/-- Both sides of the 512th entry. -/
theorem witness_TableIsReadWholeInOrder :
    (reading 0x1000 510).phase = .drun ∧ (reading 0x1000 510).disturbed = false ∧ (reading 0x1000 510).inputs = [] ∧
    (reading 0x1000 510).drLoad = some (loading 0x1000 510) ∧ (loading 0x1000 510).got.length < 511 ∧
    (reading 0x1000 510).entryAt (0x1000 + 8 * 510) = some 0 ∧
    (loading 0x1000 511).got.length = 511 ∧ (reading 0x1000 511).entryAt (0x1000 + 8 * 511) = some 0 := by
  refine ⟨rfl, rfl, rfl, rfl, ?_, by decide, loading_length .., by decide⟩
  rw [loading_length]
  decide
/-- DU-05's failing read, at the first address past the range. -/
theorem witness_FailedReadAbortsTheDump :
    (reading 0x2008 511).phase = .drun ∧ (reading 0x2008 511).disturbed = false ∧ (reading 0x2008 511).inputs = [] ∧
    (reading 0x2008 511).drLoad = some (loading 0x2008 511) ∧ (loading 0x2008 511).got.length = 511 ∧
    (reading 0x2008 511).entryAt (0x2008 + 8 * 511) = none := by
  exact ⟨rfl, rfl, rfl, rfl, loading_length .., by decide⟩
theorem scansEntry_frame (si : Bool) (l : Level) (raw : Word) (c : Option Region) :
    scansEntry (scanning si [frame l raw 0 c]) (frame l raw 0 c) [] raw := ⟨rfl, rfl, rfl, rfl, rfl⟩
theorem witness_SkippedEntryTouchesNothing :
    (scansEntry (scanning false [frame .l0 2 0 none]) (frame .l0 2 0 none) [] 2 ∧ (2 : Word).getLsbD 0 = false) ∧
    scansEntry (scanning true [frame .l0 0 0 none]) (frame .l0 0 0 none) [] 0 :=
  ⟨⟨scansEntry_frame .., by decide⟩, scansEntry_frame ..⟩
theorem witness_LeafEntryFeedsItsCoalescer_absent :
    scansEntry (scanning false [frame .l2 0x1407 0 none]) (frame .l2 0x1407 0 none) [] 0x1407 ∧
    isProcessed (scanning false [frame .l2 0x1407 0 none]) 0x1407 ∧ pteKind 0x1407 = .leaf :=
  ⟨scansEntry_frame .., .inl ⟨rfl, by decide⟩, by decide⟩
/-- A pending region that ends where the table begins, first adjacent to the leaf and then not. -/
theorem witness_LeafEntryFeedsItsCoalescer_merge :
    adjacent ⟨0, 0, 0x5000, 7⟩ { vs := 0 + 0 * span .l2, ve := 0 + 0 * span .l2 + span .l2, ps := (ptePpn 0x1407).toNat * 4096, fl := pteFlags 0x1407 } ∧
    ¬ adjacent ⟨0, 0, 0x6000, 7⟩ { vs := 0 + 0 * span .l2, ve := 0 + 0 * span .l2 + span .l2, ps := (ptePpn 0x1407).toNat * 4096, fl := pteFlags 0x1407 } ∧
    scansEntry (scanning false [frame .l2 0x1407 0 (some ⟨0, 0, 0x5000, 7⟩)]) (frame .l2 0x1407 0 (some ⟨0, 0, 0x5000, 7⟩)) [] 0x1407 ∧
    scansEntry (scanning false [frame .l2 0x1407 0 (some ⟨0, 0, 0x6000, 7⟩)]) (frame .l2 0x1407 0 (some ⟨0, 0, 0x6000, 7⟩)) [] 0x1407 := by
  refine ⟨?_, ?_, scansEntry_frame .., scansEntry_frame ..⟩ <;> unfold adjacent <;> decide
theorem witness_DirectoryEntryOpensItsChild :
    scansEntry (scanning false [frame .l1 0x801 0 none]) (frame .l1 0x801 0 none) [] 0x801 ∧
    isProcessed (scanning false [frame .l1 0x801 0 none]) 0x801 ∧ pteKind 0x801 = .directory ∧
    (frame .l1 0x801 0 none).level.next? = some .l2 :=
  ⟨scansEntry_frame .., .inl ⟨rfl, by decide⟩, by decide, rfl⟩
theorem witness_LevelTwoDirectoryIsMalformed :
    scansEntry (scanning true [frame .l2 0x801 0 none]) (frame .l2 0x801 0 none) [] 0x801 ∧
    isProcessed (scanning true [frame .l2 0x801 0 none]) 0x801 ∧ pteKind 0x801 = .directory ∧
    (frame .l2 0x801 0 none).level = .l2 :=
  ⟨scansEntry_frame .., .inr ⟨rfl, by decide⟩, by decide, rfl⟩
theorem witness_InvalidEntryIsReported :
    scansEntry (scanning true [frame .l0 2 0 none]) (frame .l0 2 0 none) [] 2 ∧
    (scanning true [frame .l0 2 0 none]).drShow = true ∧ (2 : Word) ≠ 0 ∧ pteKind 2 = .invalid :=
  ⟨scansEntry_frame .., rfl, by decide, by decide⟩
/-- The last frame's end, and the end of a frame with another under it. -/
theorem witness_TableEndFlushesAndPops :
    (scanning false [frame .l1 0 512 none]).phase = .drun ∧ (scanning false [frame .l1 0 512 none]).inputs = [] ∧
    (scanning false [frame .l1 0 512 none]).drLoad = none ∧ (frame .l1 0 512 none).tbl.length = 512 ∧
    (frame .l1 0 512 none).idx = 512 ∧
    (scanning false [frame .l1 0 512 none, frame .l0 0x801 1 none]).drStack =
      frame .l1 0 512 none :: [frame .l0 0x801 1 none] ∧ [frame .l0 0x801 1 none] ≠ [] := by
  exact ⟨rfl, rfl, rfl, frame_length .., rfl, rfl, List.cons_ne_nil _ _⟩
theorem witness_DumpIsDumpTable :
    ex6.phase = .idle ∧ ex6.disturbed = false ∧ ex6.inputs = [] ∧ ex6.drStack = [] := by decide

/-- A memory of zeros. -/
def zeros (pa : Nat) : Option Word := if pa < 2 ^ 64 then some 0 else none

theorem zeros_read (n i : Nat) (h : 8 * (i + n) < 2 ^ 64) :
    ∃ rs, readTable zeros 0 n i = (rs, .ok (List.replicate n 0)) := by
  induction n generalizing i with
  | zero => exact ⟨[], rfl⟩
  | succ n ih =>
    obtain ⟨rs, hr⟩ := ih (i + 1) (by omega)
    have hz : zeros (0 + 8 * i) = some 0 := by
      unfold zeros
      rw [if_pos (by omega)]
    exact ⟨_, by simp only [readTable, hz, hr]; rfl⟩

theorem zeros_scan (child : Nat → Nat → Scan) (l : Level) (n i : Nat) :
    scanEntries child l false 0 (List.replicate n 0) i none = scanEmits [] := by
  induction n generalizing i with
  | zero => rfl
  | succ n ih =>
    have hp : processed false 0 = false := by decide
    rw [List.replicate_succ]
    simp only [scanEntries, hp]
    exact ih (i + 1)

/-- DU-02's empty table: the DUMP succeeds. -/
theorem witness_DumpReadsWholeTables :
    (∀ pa, 2 ^ 64 ≤ pa → zeros pa = none) ∧ (dumpWhole zeros .l2 false 0 0).failed = none := by
  refine ⟨fun pa h => if_neg (by omega), ?_⟩
  obtain ⟨rs, hr⟩ := zeros_read Config.entries 0 (by decide)
  show (dumpTable zeros false [.l2] 0 0).failed = none
  simp only [dumpTable, hr, zeros_scan]
  rfl
theorem witness_DumpDependsOnWhatItReads :
    (∀ pa, 2 ^ 64 ≤ pa → zeros pa = none ∧ zeros pa = none) ∧
    ∀ pa ∈ (dumpWhole zeros .l2 false 0 0).reads, zeros pa = zeros pa :=
  ⟨fun _ h => ⟨if_neg (by omega), if_neg (by omega)⟩, fun _ _ => rfl⟩
/-- A record sequence of the form that DumpEventsComeInOrder's second clause splits. -/
theorem witness_DumpEventsComeInOrder : Level.l1.next? = some .l2 ∧
    ([.dir .l1 1 0x200000 0x8000] : List Event) = [] ++ .dir .l1 1 0x200000 0x8000 :: [] := ⟨rfl, rfl⟩

theorem walking_invariant (l : Level) (table va : Word) : Invariant (walking l table va) :=
  ⟨by show Memory.wf ex6.mem = true; decide, ⟨rfl, rfl⟩, fun _ h => nomatch h⟩
theorem frameOk_frame (raw : Word) : frameOk (frame .l0 raw 1 none) := by
  refine ⟨frame_length .., by show 1 ≤ Config.entries; decide, ?_, fun _ h => nomatch h⟩
  have := entries_mul_span_le .l0
  show 0 + Config.entries * span .l0 ≤ scanTop
  unfold scanTop
  omega
theorem witness_BusyBlockHoldsACommand :
    ({ walking .l0 0x1000 0x1234 with inputs := [.command ⟨0x00, 1, 0, 0, 0⟩] } : State).phase ≠ .idle ∧
    Invariant { walking .l0 0x1000 0x1234 with inputs := [.command ⟨0x00, 1, 0, 0, 0⟩] } :=
  ⟨by decide, walking_invariant .l0 0x1000 0x1234⟩
theorem witness_PseudoCommandsExpand :
    ({ State.reset with inputs := [.pseudo (.dumpcur false)], ctrl := 0x8000000000000001 } : State).ctrl.toNat / 2 ^ 60 = 8 ∧
    ({ State.reset with inputs := [.pseudo (.dumpcur false)], ctrl := 0x1 } : State).ctrl.toNat / 2 ^ 60 ≠ 8 ∧
    ({ State.reset with inputs := [.pseudo (.dumpat true 0x1000)] } : State).phase = .idle ∧
    ({ State.reset with inputs := [.pseudo (.xlateat 0x1000 0x123)] } : State).phase = .idle := by decide
theorem witness_ResetDropsTheCommand :
    ({ walking .l1 0x2000 0 with inputs := [.reset] } : State).inputs = .reset :: [] := rfl
/-- For the statements about any step that answers a next state: OnlyCoalescerCommandsTouchPending, OutputsAreAppendOnly and
ResponseReturnsToIdle, whose second clause starts from a busy block. -/
theorem witness_step_answers :
    (∃ t, step (walking .l1 0x2000 0x123) = .next t ∧ t.responses ≠ [] ∧ t.phase = .idle) ∧
    (walking .l1 0x2000 0x123).phase ≠ .idle := by
  refine ⟨⟨_, rfl, ?_⟩, by decide⟩
  decide
theorem witness_StepKeepsTheInvariant :
    Invariant (walking .l0 0x1000 0x123) ∧ outputsOk (walking .l0 0x1000 0x123) ∧
    ∃ t, step (walking .l0 0x1000 0x123) = .next t :=
  ⟨walking_invariant .., (by refine ⟨?_, ?_, ?_⟩ <;> intro _ h <;> cases h), _, rfl⟩
/-- For ScanStackIsBounded, InvariantExcludesFaults and EveryCommandEnds: a scan in progress with a frame on the stack. -/
theorem witness_scan_invariant :
    Invariant (scanning false [frame .l0 0 1 none]) ∧ (scanning false [frame .l0 0 1 none]).inputs = [] := by
  refine ⟨⟨rfl, ?_, fun _ h => nomatch h⟩, rfl⟩
  show stackOk _ ∧ _
  exact ⟨frameOk_frame 0, fun _ => List.cons_ne_nil _ _, fun _ h => nomatch h⟩

end Sys2Proof.Tests
end

section
/-! The extractor's level geometry (00_scope R9). -/

namespace Sys2Proof.Machine

/-- R9's formula, with the page size and the number of entries of a table as numerals. -/
theorem span_eq (l : Level) : span l = 4096 * 512 ^ (2 - l.toNat) := by
  unfold span Config.pageSize Config.entries
  rfl

/-- Settles O5: the three values are the span laws of the levels, and the formula is `span_eq`. -/
theorem spansOfTheLevels : Obligations.SpansOfTheLevels :=
  ⟨span_l0, span_l1, span_l2, span_eq⟩

end Sys2Proof.Machine
end

section
/-! The accessor's answers and requests (20_memory R41 to R43). -/

namespace Sys2Proof.Machine

theorem canRead_iff (s : State) (pa : Nat) :
    s.canRead pa = true ↔ ∃ r ∈ s.accessible, r.lo ≤ pa ∧ pa < r.hi := by
  simp [State.canRead]

theorem entryAt_of_canRead {s : State} {pa : Nat} (hp : pa < 2 ^ 64) (h : s.canRead pa = true) :
    s.entryAt pa = some (Memory.readWord s.mem s.byteOrder pa) := if_pos ⟨hp, h⟩

theorem entryAt_of_not_canRead {s : State} {pa : Nat} (h : ¬ s.canRead pa = true) :
    s.entryAt pa = none := if_neg fun hr => h hr.2

theorem requestFor_of_lt {pa : Nat} (hp : pa < 2 ^ 64) : requestFor pa = [pa] := if_pos hp

theorem requestFor_of_le {pa : Nat} (hp : 2 ^ 64 ≤ pa) : requestFor pa = [] := if_neg (Nat.not_lt.2 hp)

/-- Settles O14: `readEntry_still` gives the read of a target that holds still; each clause names its answer and its requests. -/
theorem readEntryAsksTheAccessorOnce : Obligations.ReadEntryAsksTheAccessorOnce := by
  intro pa s hs
  rw [readEntry_still hs, ← canRead_iff]
  refine ⟨fun hp hr => ?readable, fun hp hr => ?unreadable, fun hp => ?beyondTop⟩
  case readable => rw [entryAt_of_canRead hp hr, requestFor_of_lt hp]
  case unreadable => rw [entryAt_of_not_canRead hr, requestFor_of_lt hp]
  case beyondTop => rw [entryAt_top hp, requestFor_of_le hp, List.append_nil]

end Sys2Proof.Machine
end

section
/-! The command word by its fields, and the decoder and encoder on them (30_encoding R72 to R75). -/

namespace Sys2Proof.Machine

/-- R72's layout: each bit of a command word stands in one of the four fields. -/
theorem getLsbD_eq_field (w : Byte) {j : Nat} (hj : j < 8) :
    w.getLsbD j =
      if j < 3 then (opField w).getLsbD j
      else if j = 3 then showField w
      else if j < 6 then (levelField w).getLsbD (j - 4)
      else (reservedField w).getLsbD (j - 6) := by
  unfold opField showField levelField reservedField
  split
  case isTrue hop => simp [hop]
  case isFalse hop =>
    split
    case isTrue hshow => rw [hshow]
    case isFalse hshow =>
      split
      case isTrue hlevel => simp [show j - 4 < 2 by omega, show 4 + (j - 4) = j by omega]
      case isFalse hlevel => simp [show j - 6 < 2 by omega, show 6 + (j - 6) = j by omega]

/-- A command word is determined by its four fields. -/
theorem word_eq_iff_fields {v w : Byte} :
    v = w ↔ reservedField v = reservedField w ∧ levelField v = levelField w ∧
      showField v = showField w ∧ opField v = opField w := by
  constructor
  · rintro rfl
    exact ⟨rfl, rfl, rfl, rfl⟩
  · rintro ⟨hres, hlevel, hshow, hop⟩
    refine BitVec.eq_of_getLsbD_eq fun j hj => ?_
    rw [getLsbD_eq_field v hj, getLsbD_eq_field w hj, hres, hlevel, hshow, hop]

/-- The OP of a command's row (R70). -/
def rowOp : Instr → BitVec 3
  | .ptedec _ => 0
  | .vasplit _ => 1
  | .rootdec _ => 2
  | .xlate _ _ => 3
  | .cpush _ _ _ _ => 4
  | .cflush => 5
  | .dumpL0 _ _ _ | .dumpL1 _ _ _ | .dumpL2 _ _ _ => 6

/-- The S of a command: SHOW_INVALID in a DUMP, 0 in every other command (R72). -/
def rowShow : Instr → Bool
  | .dumpL0 si _ _ | .dumpL1 si _ _ | .dumpL2 si _ _ => si
  | _ => false

/-- The L of a command's row: the level in a DUMP, 0 in every other command (R72). -/
def rowLevel : Instr → BitVec 2
  | .dumpL1 _ _ _ => 1
  | .dumpL2 _ _ _ => 2
  | _ => 0

/-- The encoder writes each field of R72: zeros in the reserved bits, and the L, S and OP of the command's row. -/
theorem encodeWord_fields (i : Instr) :
    reservedField (encodeWord i) = 0 ∧ levelField (encodeWord i) = rowLevel i ∧
      showField (encodeWord i) = rowShow i ∧ opField (encodeWord i) = rowOp i := by
  unfold reservedField levelField showField opField
  cases i with
  | dumpL0 si | dumpL1 si | dumpL2 si => cases si <;> simp [encodeWord, showBit, rowLevel, rowShow, rowOp]
  | _ => simp [encodeWord, rowLevel, rowShow, rowOp]

/-- A word is a command's when its reserved bits are 0 and its L, S and OP are those of the command's row. -/
theorem word_eq_encodeWord_iff {w : Byte} {i : Instr} :
    w = encodeWord i ↔ reservedField w = 0 ∧ levelField w = rowLevel i ∧ showField w = rowShow i ∧
      opField w = rowOp i := by
  obtain ⟨hres, hlevel, hshow, hop⟩ := encodeWord_fields i
  rw [word_eq_iff_fields, hres, hlevel, hshow, hop]

/-- R72's demand on the words of the other commands. -/
theorem rowShow_rowLevel_of_plain {i : Instr} (h : rowOp i ≠ 6) : rowShow i = false ∧ rowLevel i = 0 := by
  cases i with
  | dumpL0 | dumpL1 | dumpL2 => exact absurd rfl h
  | _ => exact ⟨rfl, rfl⟩

/-- The DUMP rows are told apart by L alone, and S goes into the command (R74). -/
theorem decodeDump_ok_iff (r : Request) (i : Instr) :
    decodeDump r = .ok i ↔
      levelField r.word = rowLevel i ∧ showField r.word = rowShow i ∧ 6 = rowOp i ∧ carriesOperands i r := by
  constructor
  case mp =>
    intro h
    unfold decodeDump at h
    split at h
    case h_4 => cases h
    all_goals
      rename_i hlevel
      cases h
      exact ⟨BitVec.eq_of_toNat_eq hlevel, rfl, rfl, rfl, rfl⟩
  case mpr =>
    rintro ⟨hlevel, hshow, hop, hbuses⟩
    unfold decodeDump
    cases i with
    | dumpL0 | dumpL1 | dumpL2 =>
      obtain ⟨rfl, rfl⟩ := hbuses
      rw [hlevel, hshow]
      rfl
    | _ => simp [rowOp] at hop

/-- The other rows are told apart by OP alone (R74). -/
theorem decodePlain_ok_iff {r : Request} (hr : opField r.word ≠ 6) (i : Instr) :
    decodePlain r = .ok i ↔ opField r.word = rowOp i ∧ carriesOperands i r := by
  constructor
  case mp =>
    intro h
    unfold decodePlain at h
    split at h
    case h_7 => cases h
    all_goals
      rename_i hop
      cases h
      exact ⟨BitVec.eq_of_toNat_eq hop, by simp [carriesOperands]⟩
  case mpr =>
    rintro ⟨hop, hbuses⟩
    unfold decodePlain
    rw [hop]
    cases i with
    | dumpL0 | dumpL1 | dumpL2 => exact absurd hop hr
    | ptedec | vasplit | rootdec => cases hbuses; rfl
    | xlate => obtain ⟨rfl, rfl⟩ := hbuses; rfl
    | cpush => obtain ⟨rfl, rfl, rfl, rfl⟩ := hbuses; rfl
    | cflush => rfl

/-- The decoder by its four branches: each branch's test is a field of the word, and a command's word has the fields of its row. -/
theorem decode_ok_iff (r : Request) (i : Instr) :
    decode r = .ok i ↔ r.word = encodeWord i ∧ carriesOperands i r := by
  rw [word_eq_encodeWord_iff]
  unfold decode
  split
  case isTrue hres => exact ⟨nofun, fun ⟨⟨hclear, _⟩, _⟩ => absurd hclear hres⟩
  case isFalse hres =>
    rw [Decidable.not_not] at hres
    split
    case isTrue hdump =>
      rw [decodeDump_ok_iff, hdump]
      simp [hres, and_assoc]
    case isFalse hplain =>
      split
      case isTrue hstray =>
        refine ⟨nofun, ?_⟩
        rintro ⟨⟨-, hlevel, hshow, hop⟩, -⟩
        obtain ⟨hs, hl⟩ := rowShow_rowLevel_of_plain (hop ▸ hplain)
        simp [hlevel, hshow, hs, hl] at hstray
      case isFalse hclear =>
        rw [not_or, Decidable.not_not, Bool.not_eq_true] at hclear
        obtain ⟨hshow, hlevel⟩ := hclear
        rw [decodePlain_ok_iff hplain]
        refine ⟨fun ⟨hop, hbuses⟩ => ?_, fun ⟨⟨_, _, _, hop⟩, hbuses⟩ => ⟨hop, hbuses⟩⟩
        obtain ⟨hs, hl⟩ := rowShow_rowLevel_of_plain (hop ▸ hplain)
        exact ⟨⟨hres, hlevel.trans hl.symm, hshow.trans hs.symm, hop⟩, hbuses⟩

theorem encode_word (i : Instr) : (encode i).word = encodeWord i := by cases i <;> rfl

theorem carriesOperands_encode (i : Instr) : carriesOperands i (encode i) := by
  cases i <;> simp [carriesOperands, encode]

/-- Settles O3: the round trip is `decode_ok_iff` at the request the encoder writes. -/
theorem decodeAndEncodeAgree : Obligations.DecodeAndEncodeAgree :=
  ⟨fun i => (decode_ok_iff (encode i) i).2 ⟨encode_word i, carriesOperands_encode i⟩, decode_ok_iff⟩

end Sys2Proof.Machine
end

section
/-! The legal words, and the refusal of every other word by the idle block (30_encoding R73). -/

namespace Sys2Proof.Machine

/-- R73's twelve legal words. -/
def legalWords : List Byte := [0x00, 0x01, 0x02, 0x03, 0x04, 0x05, 0x06, 0x0E, 0x16, 0x1E, 0x26, 0x2E]

theorem encodeWord_mem_legalWords (i : Instr) : encodeWord i ∈ legalWords := by
  unfold legalWords
  cases i with
  | dumpL0 si | dumpL1 si | dumpL2 si => cases si <;> simp [encodeWord, showBit]
  | _ => simp [encodeWord]

/-- A command presented to an idle block is looked at in this step. -/
theorem fetch_command_of_idle {s : State} {r : Request} {rest : List Input} (hidle : s.phase = .idle)
    (hin : s.inputs = .command r :: rest) : fetch s = fetchCommand r (setInputs rest s) := by
  unfold fetch State.busy
  rw [hin, hidle]
  rfl

theorem step_refused_of_decode_error {s : State} {r : Request} {rest : List Input} {why : NoCommand}
    (hidle : s.phase = .idle) (hin : s.inputs = .command r :: rest) (hr : decode r = .error why) :
    step s = .refused (.noCommand r.word why) := by
  unfold step
  rw [fetch_command_of_idle hidle hin]
  unfold fetchCommand
  rw [hr]

/-- Settles O2: a legal word is its row's, so `decode_ok_iff` gives its command; a word that decodes is some command's, so it is
legal. -/
theorem onlyLegalWordsAreCommands : Obligations.OnlyLegalWordsAreCommands := by
  refine ⟨fun a b c d => ?legal, fun r hr => ?illegal⟩
  case legal =>
    simp [decode_ok_iff, encodeWord, showBit, carriesOperands]
  case illegal =>
    have hnone : ∀ i, decode r ≠ .ok i := fun i h => by
      obtain ⟨hword, -⟩ := (decode_ok_iff r i).1 h
      exact hr (hword ▸ encodeWord_mem_legalWords i)
    refine ⟨hnone, fun s rest hidle hin => ?_⟩
    cases hd : decode r with
    | ok i => exact absurd hd (hnone i)
    | error why => exact ⟨why, step_refused_of_decode_error hidle hin hd⟩

end Sys2Proof.Machine
end

section
/-! The fields of an entry, an address and a control value, as numbers and as bits (40_extractor R90 to R92, R95). -/

namespace Sys2Proof.Machine

/-! ### Fields as numbers -/

theorem field_toNat (w : Word) (lo n : Nat) : (w.extractLsb' lo n).toNat = w.toNat / 2 ^ lo % 2 ^ n := by
  rw [BitVec.extractLsb'_toNat, Nat.shiftRight_eq_div_pow]

theorem lowField_toNat (w : Word) (n : Nat) : (w.extractLsb' 0 n).toNat = w.toNat % 2 ^ n := by
  rw [field_toNat, Nat.pow_zero, Nat.div_one]

theorem pteFlags_toNat (raw : Word) : (pteFlags raw).toNat = raw.toNat % 2 ^ 10 := lowField_toNat raw 10

theorem ptePpn_toNat (raw : Word) : (ptePpn raw).toNat = raw.toNat / 2 ^ 10 % 2 ^ 44 := field_toNat raw 10 44

theorem vaOffset_toNat (va : Word) : (vaOffset va).toNat = va.toNat % 2 ^ 12 := lowField_toNat va 12

theorem vpn0_toNat (va : Word) : (vpn0 va).toNat = va.toNat / 2 ^ 12 % 2 ^ 9 := field_toNat va 12 9

theorem vpn1_toNat (va : Word) : (vpn1 va).toNat = va.toNat / 2 ^ 21 % 2 ^ 9 := field_toNat va 21 9

theorem vpn2_toNat (va : Word) : (vpn2 va).toNat = va.toNat / 2 ^ 30 % 2 ^ 9 := field_toNat va 30 9

theorem ctrlRootPpn_toNat (ctrl : Word) : (ctrlRootPpn ctrl).toNat = ctrl.toNat % 2 ^ 44 := lowField_toNat ctrl 44

theorem ctrlAsid_toNat (ctrl : Word) : (ctrlAsid ctrl).toNat = ctrl.toNat / 2 ^ 44 % 2 ^ 16 := field_toNat ctrl 44 16

/-- The mode is the top field, so nothing is above it to cut off. -/
theorem ctrlMode_toNat (ctrl : Word) : (ctrlMode ctrl).toNat = ctrl.toNat / 2 ^ 60 := by
  have htop : ctrl.toNat < 2 ^ 64 := ctrl.isLt
  unfold ctrlMode
  rw [field_toNat, Nat.mod_eq_of_lt (by omega)]

theorem ctrlRootAddr_toNat (ctrl : Word) : ctrlRootAddr ctrl = ctrl.toNat % 2 ^ 44 * 4096 := by
  unfold ctrlRootAddr physOfPpn Config.pageSize
  rw [ctrlRootPpn_toNat]

theorem ctrlEnabled_iff (ctrl : Word) : ctrlEnabled ctrl = true ↔ ctrl.toNat / 2 ^ 60 = 8 := by
  unfold ctrlEnabled Config.enableMode
  rw [beq_iff_eq, ← BitVec.toNat_inj, ctrlMode_toNat]
  rfl

/-! ### Fields put together -/

/-- The field of a word from bit `lo` on, `n` bits wide, at its own place in an otherwise clear word. -/
def placedField (w : Word) (lo n : Nat) : Word := (w.extractLsb' lo n).setWidth 64 <<< lo

theorem getLsbD_placedField (w : Word) (lo n j : Nat) :
    (placedField w lo n).getLsbD j = (decide (lo ≤ j ∧ j < lo + n) && w.getLsbD j) := by
  unfold placedField
  by_cases hlo : lo ≤ j
  case pos =>
    by_cases htop : j < 64
    · simp [hlo, htop, Nat.sub_lt_iff_lt_add' hlo]
    · simp [htop, BitVec.getLsbD_of_ge w j (by omega)]
  case neg => simp [hlo, show j < lo by omega]

/-- Two neighbouring fields put together are the one field they span. -/
theorem placedField_or_below (w : Word) (lo n : Nat) :
    placedField w lo n ||| placedField w 0 lo = placedField w 0 (lo + n) := by
  refine BitVec.eq_of_getLsbD_eq fun j _ => ?_
  rw [BitVec.getLsbD_or]
  simp only [getLsbD_placedField, ← Bool.and_or_distrib_right, ← Bool.decide_or]
  congr 2
  rw [eq_iff_iff]
  omega

theorem placedField_zero_left (w : Word) (n : Nat) : placedField w 0 n = (w.extractLsb' 0 n).setWidth 64 :=
  BitVec.shiftLeft_zero _

theorem placedField_all (w : Word) : placedField w 0 64 = w := by
  rw [placedField_zero_left, BitVec.setWidth_eq, BitVec.extractLsb'_eq_self]

theorem placedField_top (w : Word) {lo n : Nat} (h : lo + n = 64) : placedField w lo n = w >>> lo <<< lo := by
  refine BitVec.eq_of_getLsbD_eq fun j hj => ?_
  rw [getLsbD_placedField, h, BitVec.getLsbD_shiftLeft, BitVec.getLsbD_ushiftRight]
  by_cases hlo : lo ≤ j
  · simp only [hlo, hj, Nat.not_lt.2 hlo, Nat.add_sub_cancel' hlo]
    rfl
  · simp [hlo, Nat.not_le.1 hlo]

/-- The low field is what a mask of as many ones leaves. -/
theorem and_allOnes_eq_placedField (w : Word) (n : Nat) :
    w &&& (BitVec.allOnes n).setWidth 64 = placedField w 0 n := by
  refine BitVec.eq_of_getLsbD_eq fun j hj => ?_
  rw [BitVec.getLsbD_and, getLsbD_placedField]
  simp [hj, Bool.and_comm]

end Sys2Proof.Machine
end

section
/-! The kind of an entry by its bits (40_extractor R91). -/

namespace Sys2Proof.Machine

/-- The three tests of R91 exclude each other, and each gives its kind. -/
theorem pteKind_cases (raw : Word) :
    (raw.getLsbD 0 = false ∧ pteKind raw = .invalid) ∨
    (raw.getLsbD 0 = true ∧ (raw.getLsbD 1 = true ∨ raw.getLsbD 2 = true ∨ raw.getLsbD 3 = true) ∧
      pteKind raw = .leaf) ∨
    (raw.getLsbD 0 = true ∧ ¬ (raw.getLsbD 1 = true ∨ raw.getLsbD 2 = true ∨ raw.getLsbD 3 = true) ∧
      pteKind raw = .directory) := by
  unfold pteKind pteV pteR pteW pteX
  simp only [Bool.or_eq_true, or_assoc]
  split
  case isTrue hv => exact .inl ⟨hv, rfl⟩
  case isFalse hv =>
    rw [Bool.not_eq_false] at hv
    split
    case isTrue hrwx => exact .inr (.inl ⟨hv, hrwx, rfl⟩)
    case isFalse hrwx => exact .inr (.inr ⟨hv, hrwx, rfl⟩)

theorem pteKind_exhausts (raw : Word) :
    pteKind raw = .invalid ∨ pteKind raw = .leaf ∨ pteKind raw = .directory :=
  (pteKind_cases raw).imp And.right (.imp (fun ⟨_, _, hleaf⟩ => hleaf) fun ⟨_, _, hdirectory⟩ => hdirectory)

theorem kindCode_pteKind (raw : Word) :
    kindCode (pteKind raw) =
      if raw.getLsbD 0 = false then 0
      else if raw.getLsbD 1 = true ∨ raw.getLsbD 2 = true ∨ raw.getLsbD 3 = true then 1 else 2 := by
  obtain ⟨hv, hkind⟩ | ⟨hv, hrwx, hkind⟩ | ⟨hv, hrwx, hkind⟩ := pteKind_cases raw <;> rw [hkind]
  · rw [if_pos hv, kindCode]
  · rw [if_neg (by simp [hv]), if_pos hrwx, kindCode]
  · rw [if_neg (by simp [hv]), if_neg hrwx, kindCode]

/-- Settles O6: in each case of `pteKind_cases` the tests and the kind are known, so the three equivalences compare known values. -/
theorem kindByTheFourLowBits : Obligations.KindByTheFourLowBits := by
  intro raw
  obtain ⟨hv, hkind⟩ | ⟨hv, hrwx, hkind⟩ | ⟨hv, hrwx, hkind⟩ := pteKind_cases raw
  case inl =>
    simp only [hv, hkind, reduceCtorEq, false_and, and_self]
  case inr.inl =>
    have hsome : ¬ (raw.getLsbD 1 = false ∧ raw.getLsbD 2 = false ∧ raw.getLsbD 3 = false) := by
      simpa only [not_and_or, Bool.not_eq_false] using hrwx
    simp only [hv, hkind, hrwx, hsome]
    decide
  case inr.inr =>
    have hnone : raw.getLsbD 1 = false ∧ raw.getLsbD 2 = false ∧ raw.getLsbD 3 = false := by
      simpa only [not_or, Bool.not_eq_true] using hrwx
    simp only [hv, hkind, hnone]
    decide

end Sys2Proof.Machine
end

section
/-! The five laws of the extractor's fields (40_extractor R97). -/

namespace Sys2Proof.Machine

theorem pteFlags_getLsbD (raw : Word) {k : Nat} (hk : k < 10) : (pteFlags raw).getLsbD k = raw.getLsbD k := by
  unfold pteFlags
  rw [BitVec.getLsbD_extractLsb', decide_eq_true hk, Bool.true_and, Nat.zero_add]

theorem ptePpn_toNat_shift (raw : Word) : (ptePpn raw).toNat = (raw >>> 10).toNat % 2 ^ 44 := by
  rw [ptePpn_toNat, BitVec.toNat_ushiftRight, Nat.shiftRight_eq_div_pow]

/-- Bits 63 to 54, then the page number, then the flags. -/
theorem raw_eq_fields (raw : Word) :
    raw = ((raw >>> 54) <<< 54) ||| ((ptePpn raw).setWidth 64 <<< 10) ||| (pteFlags raw).setWidth 64 :=
  calc raw
    _ = placedField raw 54 10 ||| (placedField raw 10 44 ||| placedField raw 0 10) := by
      rw [placedField_or_below, placedField_or_below, placedField_all]
    _ = ((raw >>> 54) <<< 54) ||| (placedField raw 10 44 ||| (pteFlags raw).setWidth 64) := by
      rw [placedField_top raw rfl, placedField_zero_left raw 10, pteFlags]
    _ = _ := (BitVec.or_assoc ..).symm

/-- The page number and the flags are the low 54 bits, divided at bit 10. -/
theorem low54_eq_iff_fields (raw raw' : Word) :
    raw.toNat % 2 ^ 54 = raw'.toNat % 2 ^ 54 ↔ ptePpn raw = ptePpn raw' ∧ pteFlags raw = pteFlags raw' := by
  rw [← BitVec.toNat_inj, ← BitVec.toNat_inj, ptePpn_toNat, ptePpn_toNat, pteFlags_toNat, pteFlags_toNat]
  omega

theorem low39_eq_fields (va : Word) :
    va &&& 0x7FFFFFFFFF =
      ((vpn2 va).setWidth 64 <<< 30) ||| ((vpn1 va).setWidth 64 <<< 21) ||| ((vpn0 va).setWidth 64 <<< 12) |||
        (vaOffset va).setWidth 64 :=
  calc va &&& 0x7FFFFFFFFF
    _ = placedField va 0 39 := and_allOnes_eq_placedField va 39
    _ = placedField va 30 9 ||| (placedField va 21 9 ||| (placedField va 12 9 ||| placedField va 0 12)) := by
      rw [placedField_or_below, placedField_or_below, placedField_or_below]
    _ = placedField va 30 9 ||| placedField va 21 9 ||| placedField va 12 9 ||| (vaOffset va).setWidth 64 := by
      rw [placedField_zero_left va 12, vaOffset, BitVec.or_assoc, BitVec.or_assoc]

theorem ctrl_eq_fields (ctrl : Word) :
    ctrl =
      ((ctrlMode ctrl).setWidth 64 <<< 60) ||| ((ctrlAsid ctrl).setWidth 64 <<< 44) |||
        (ctrlRootPpn ctrl).setWidth 64 :=
  calc ctrl
    _ = placedField ctrl 60 4 ||| (placedField ctrl 44 16 ||| placedField ctrl 0 44) := by
      rw [placedField_or_below, placedField_or_below, placedField_all]
    _ = placedField ctrl 60 4 ||| placedField ctrl 44 16 ||| (ctrlRootPpn ctrl).setWidth 64 := by
      rw [placedField_zero_left ctrl 44, ctrlRootPpn, BitVec.or_assoc]

/-- Settles O7, law by law of R97: `placedField_or_below` puts the neighbouring fields of an entry, an address and a control value
together one after the other, and `low54_eq_iff_fields` says which bits of an entry its two fields hold. -/
theorem extractorLosesNoBit : Obligations.ExtractorLosesNoBit :=
  ⟨fun raw => ⟨ptePpn_toNat_shift raw, fun _ hk => pteFlags_getLsbD raw hk, pteKind_exhausts raw, raw_eq_fields raw⟩,
    low54_eq_iff_fields, low39_eq_fields, ctrl_eq_fields⟩

end Sys2Proof.Machine
end

section
/-! The extractor's commands (40_extractor R93, R94, R96): each answers from IDLE with one response. -/

namespace Sys2Proof.Machine

/-- From IDLE, a command that only responds appends its response and changes nothing else. -/
theorem accept_respond {s : State} (hidle : s.phase = .idle) (r : Response) :
    accept s (respond r) = .next { s with responses := s.responses ++ [r] } := by
  rw [accept_idle hidle, respond, ← hidle]

theorem ptedecResponse_eq (raw : Word) :
    ptedecResponse raw =
      { status := .ok, e := false
        r0 := raw.toNat % 2 ^ 10
        r1 := raw.toNat / 2 ^ 10 % 2 ^ 44
        r2 := if raw.getLsbD 0 = false then 0
              else if raw.getLsbD 1 = true ∨ raw.getLsbD 2 = true ∨ raw.getLsbD 3 = true then 1 else 2
        r3 := 0 } := by
  rw [ptedecResponse, pteFlags_toNat, ptePpn_toNat, kindCode_pteKind]

theorem vasplitResponse_eq (va : Word) :
    vasplitResponse va =
      { status := .ok, e := false
        r0 := va.toNat / 2 ^ 30 % 2 ^ 9
        r1 := va.toNat / 2 ^ 21 % 2 ^ 9
        r2 := va.toNat / 2 ^ 12 % 2 ^ 9
        r3 := va.toNat % 2 ^ 12 } := by
  rw [vasplitResponse, vpn2_toNat, vpn1_toNat, vpn0_toNat, vaOffset_toNat]

theorem rootdecResponse_eq (ctrl : Word) :
    rootdecResponse ctrl =
      { status := if ctrl.toNat / 2 ^ 60 = 8 then .ok else .unsupportedMode
        e := false
        r0 := ctrl.toNat % 2 ^ 44 * 4096
        r1 := ctrl.toNat / 2 ^ 44 % 2 ^ 16
        r2 := ctrl.toNat / 2 ^ 60
        r3 := ctrl.toNat % 2 ^ 44 } := by
  rw [rootdecResponse, ctrlRootAddr_toNat, ctrlAsid_toNat, ctrlMode_toNat, ctrlRootPpn_toNat]
  simp only [ctrlEnabled_iff]

/-- Settles O8: `decode_ok_iff` reads the command, `ptedecResponse_eq` its response. -/
theorem ptedecAnswersTheFields : Obligations.PtedecAnswersTheFields := by
  intro raw b c d s hidle
  refine ⟨(decode_ok_iff _ _).2 ⟨rfl, rfl⟩, ?_⟩
  rw [← ptedecResponse_eq]
  exact accept_respond hidle _

/-- Settles O9: `decode_ok_iff` reads the command, `vasplitResponse_eq` its response. -/
theorem vasplitAnswersTheIndices : Obligations.VasplitAnswersTheIndices := by
  intro va b c d s hidle
  refine ⟨(decode_ok_iff _ _).2 ⟨rfl, rfl⟩, ?_⟩
  rw [← vasplitResponse_eq]
  exact accept_respond hidle _

/-- Settles O10: `decode_ok_iff` reads the command, `rootdecResponse_eq` its response; that the status is OK exactly in mode 8 is
`ctrlEnabled_iff`. -/
theorem rootdecChecksTheMode : Obligations.RootdecChecksTheMode := by
  intro ctrl b c d s hidle
  refine ⟨(decode_ok_iff _ _).2 ⟨rfl, rfl⟩, ?_⟩
  rw [← rootdecResponse_eq]
  exact accept_respond hidle _

end Sys2Proof.Machine
end

section
/-! The walk step (41_translator R111 to R114): its address, and what it does for each answer of the accessor. -/

namespace Sys2Proof.Machine

/-- A walk is in progress, the target has held still and nothing is presented. -/
structure WalkingStill (s : State) : Prop where
  phase : s.phase = .xwalk
  still : s.disturbed = false
  quiet : s.inputs = []

/-- R92: the index of level `l` is the nine bits of the address from bit `30 - 9 * l` on. -/
theorem vaIndex_toNat (va : Word) (l : Level) :
    (vaIndex va l).toNat = va.toNat / 2 ^ (30 - 9 * l.toNat) % 2 ^ 9 := by
  cases l with
  | l0 => exact vpn2_toNat va
  | l1 => exact vpn1_toNat va
  | l2 => exact vpn0_toNat va

theorem walkAddr_eq (s : State) :
    walkAddr s = s.xlTable.toNat + 8 * (s.xlVa.toNat / 2 ^ (30 - 9 * s.xlLevel.toNat) % 2 ^ 9) := by
  rw [walkAddr, entryAddr, vaIndex_toNat]

theorem requestFor_of_entryAt {s : State} {pa : Nat} {raw : Word} (h : s.entryAt pa = some raw) :
    requestFor pa = [pa] := by
  refine requestFor_of_lt (Nat.lt_of_not_le fun htop => ?_)
  rw [entryAt_top htop] at h
  cases h

/-- R113's leaf result and child base, with the page size as a numeral. -/
theorem physOfPpn_eq (p : Ppn) : physOfPpn p = p.toNat * 4096 := rfl

/-- The walk after a Directory has been followed to level `l`. -/
def followDirectory (raw : Word) (l : Level) (s : State) : State :=
  { s with reads := s.reads ++ [walkAddr s], xlTable := childBase raw, xlLevel := l }

/-- A step that makes requests and then responds leaves what `endsWith` says a command's end leaves. -/
theorem endsWith_endCommand (s : State) (reads : List Nat) (r : Response) :
    endsWith s (endCommand r { s with reads := reads }) r :=
  ⟨rfl, rfl, rfl, rfl, rfl, rfl, rfl, rfl, rfl, rfl⟩

/-! ### The step, for each answer of the accessor -/

section
variable {s : State} {raw : Word}

theorem WalkingStill.step_eq (hs : WalkingStill s) : step s = .next (walkStep s) := by
  unfold step fetch progress
  rw [hs.quiet, hs.phase]

theorem WalkingStill.step_of_entryAt_some (hs : WalkingStill s) (h : s.entryAt (walkAddr s) = some raw) :
    step s = .next (walkEntry raw { s with reads := s.reads ++ [walkAddr s] }) := by
  rw [hs.step_eq, walkStep, readEntry_still hs.still, h, requestFor_of_entryAt h]

/-- The read failed: HOST_MEMORY_ERROR with the address read. -/
theorem WalkingStill.step_fails (hs : WalkingStill s) (h : s.entryAt (walkAddr s) = none) :
    step s = .next (endCommand { status := .hostMemoryError, r0 := walkAddr s }
      { s with reads := s.reads ++ requestFor (walkAddr s) }) := by
  rw [hs.step_eq, walkStep, readEntry_still hs.still, h]
  rfl

theorem WalkingStill.step_invalid (hs : WalkingStill s) (h : s.entryAt (walkAddr s) = some raw)
    (hk : pteKind raw = .invalid) :
    step s = .next (endCommand { status := .unmapped } { s with reads := s.reads ++ [walkAddr s] }) := by
  rw [hs.step_of_entryAt_some h, walkEntry, hk]

theorem WalkingStill.step_leaf (hs : WalkingStill s) (h : s.entryAt (walkAddr s) = some raw)
    (hk : pteKind raw = .leaf) :
    step s = .next (endCommand { status := .ok, r0 := leafPhys raw s.xlVa, r1 := (pteFlags raw).toNat }
      { s with reads := s.reads ++ [walkAddr s] }) := by
  rw [hs.step_of_entryAt_some h, walkEntry, hk]

/-- R114: a Directory at the last level ends the walk. -/
theorem WalkingStill.step_malformed (hs : WalkingStill s) (h : s.entryAt (walkAddr s) = some raw)
    (hk : pteKind raw = .directory) (hl : s.xlLevel.next? = none) :
    step s = .next (endCommand { status := .malformed } { s with reads := s.reads ++ [walkAddr s] }) := by
  simp only [hs.step_of_entryAt_some h, walkEntry, hk, hl]

/-- R113: a Directory above the last level is followed. -/
theorem WalkingStill.step_follows {l : Level} (hs : WalkingStill s) (h : s.entryAt (walkAddr s) = some raw)
    (hk : pteKind raw = .directory) (hl : s.xlLevel.next? = some l) :
    step s = .next (followDirectory raw l s) := by
  simp only [hs.step_of_entryAt_some h, walkEntry, hk, hl, followDirectory]

end

/-- Settles O18: `decode_ok_iff` reads the command; from IDLE, acceptance is `latchXlate`. -/
theorem xlateLatchesItsOperands : Obligations.XlateLatchesItsOperands := by
  intro root va c d s hidle
  exact ⟨(decode_ok_iff _ _).2 ⟨rfl, rfl, rfl⟩, accept_idle hidle (latchXlate root va)⟩

/-- Settles O19: `walkAddr_eq` gives the address; the clauses are the step for a failed read and for an entry of each kind. -/
theorem walkStepReadsOneEntry : Obligations.WalkStepReadsOneEntry := by
  intro s pa hphase hstill hquiet hpa
  have hs : WalkingStill s := ⟨hphase, hstill, hquiet⟩
  obtain rfl : pa = walkAddr s := hpa.trans (walkAddr_eq s).symm
  refine ⟨fun hfail => ⟨_, hs.step_fails hfail, rfl, endsWith_endCommand ..⟩, fun raw hraw => ?_⟩
  refine ⟨fun hk => ⟨_, hs.step_invalid hraw hk, rfl, endsWith_endCommand ..⟩, fun hk => ?leaf,
    fun hk hl => ⟨_, hs.step_malformed hraw hk (by rw [hl, Level.next?]), rfl, endsWith_endCommand ..⟩,
    fun hk l hl => hs.step_follows hraw hk hl⟩
  case leaf =>
    refine ⟨_, hs.step_leaf hraw hk, rfl, ?_⟩
    rw [leafPhys, physOfPpn_eq, vaOffset_toNat, pteFlags_toNat]
    exact endsWith_endCommand ..

end Sys2Proof.Machine
end

section
/-! XLATE as one function (41_translator R115): how many entries `translate` reads, and what its result depends on. -/

namespace Sys2Proof.Machine

/-! ### One level of `translate` -/

section
variable {mem : Nat → Option Word} {va : Word} {l : Level} {ls : List Level} {table pa : Nat} {raw : Word}

theorem translateFrom_fails (hpa : pa = table + 8 * (vaIndex va l).toNat) (hm : mem pa = none) :
    translateFrom mem va (l :: ls) table =
      { reads := requestFor pa, response := { status := .hostMemoryError, r0 := pa } } := by
  subst hpa
  simp only [translateFrom, hm]

theorem translateFrom_invalid (hpa : pa = table + 8 * (vaIndex va l).toNat) (hm : mem pa = some raw)
    (hk : pteKind raw = .invalid) :
    translateFrom mem va (l :: ls) table =
      { reads := requestFor pa, response := { status := .unmapped } } := by
  subst hpa
  simp only [translateFrom, hm, hk]

theorem translateFrom_leaf (hpa : pa = table + 8 * (vaIndex va l).toNat) (hm : mem pa = some raw)
    (hk : pteKind raw = .leaf) :
    translateFrom mem va (l :: ls) table =
      { reads := requestFor pa
        response := { status := .ok, r0 := leafPhys raw va, r1 := (pteFlags raw).toNat } } := by
  subst hpa
  simp only [translateFrom, hm, hk, leafPhys, physOfPpn_eq]

theorem translateFrom_directory (hpa : pa = table + 8 * (vaIndex va l).toNat) (hm : mem pa = some raw)
    (hk : pteKind raw = .directory) :
    translateFrom mem va (l :: ls) table =
      { reads := requestFor pa ++ (translateFrom mem va ls (physOfPpn (ptePpn raw))).reads
        response := (translateFrom mem va ls (physOfPpn (ptePpn raw))).response } := by
  subst hpa
  simp only [translateFrom, hm, hk, physOfPpn_eq]

end

/-! ### How much it reads -/

theorem requestFor_length_le (pa : Nat) : (requestFor pa).length ≤ 1 := by
  unfold requestFor
  split <;> simp

/-- R115, consequence 1: at most one read for each level. -/
theorem translateFrom_reads_length_le (mem : Nat → Option Word) (va : Word) (ls : List Level) (table : Nat) :
    (translateFrom mem va ls table).reads.length ≤ ls.length := by
  fun_induction translateFrom mem va ls table with
  | case1 => exact Nat.le_refl 0
  | case2 _ ls _ pa _ | case3 _ ls _ pa _ _ _ | case4 _ ls _ pa _ _ _ =>
    exact (requestFor_length_le pa).trans (Nat.le_add_left 1 ls.length)
  | case5 _ ls _ pa _ _ _ below ih =>
    have hone := requestFor_length_le pa
    have hbelow : below.reads.length ≤ ls.length := ih
    rw [List.length_append, List.length_cons]
    omega

/-! ### What it depends on -/

/-- R92: an index is nine of the low 39 bits. -/
theorem vaIndex_congr {va va' : Word} (h : va.toNat % 2 ^ 39 = va'.toNat % 2 ^ 39) (l : Level) :
    vaIndex va l = vaIndex va' l := by
  rw [← BitVec.toNat_inj, vaIndex_toNat, vaIndex_toNat]
  cases l <;> simp only [Level.toNat] <;> omega

theorem vaOffset_congr {va va' : Word} (h : va.toNat % 2 ^ 39 = va'.toNat % 2 ^ 39) :
    vaOffset va = vaOffset va' := by
  rw [← BitVec.toNat_inj, vaOffset_toNat, vaOffset_toNat]
  omega

/-- The address is used through its indices and its offset alone. -/
theorem translateFrom_congr_va (mem : Nat → Option Word) {va va' : Word}
    (h : va.toNat % 2 ^ 39 = va'.toNat % 2 ^ 39) (ls : List Level) (table : Nat) :
    translateFrom mem va ls table = translateFrom mem va' ls table := by
  induction ls generalizing table with
  | nil => rfl
  | cons l ls ih => simp only [translateFrom, vaIndex_congr h, vaOffset_congr h, ih]

/-- Two memories with nothing beyond the top that agree on the request for an address agree at the address. -/
theorem mem_eq_of_agree_on_request {mem mem' : Nat → Option Word} {pa : Nat}
    (htop : ∀ pa, 2 ^ 64 ≤ pa → mem pa = none ∧ mem' pa = none) (h : ∀ a ∈ requestFor pa, mem a = mem' a) :
    mem pa = mem' pa := by
  by_cases hpa : pa < 2 ^ 64
  · exact h pa (by rw [requestFor_of_lt hpa]; exact List.mem_singleton_self pa)
  · obtain ⟨hnone, hnone'⟩ := htop pa (Nat.le_of_not_lt hpa)
    rw [hnone, hnone']

/-- R115, consequence 4, for the memory: at each level the entry read is the same, and so is what is done with it. -/
theorem translateFrom_congr_mem {mem mem' : Nat → Option Word} (va : Word) (ls : List Level) (table : Nat)
    (htop : ∀ pa, 2 ^ 64 ≤ pa → mem pa = none ∧ mem' pa = none)
    (hreads : ∀ pa ∈ (translateFrom mem va ls table).reads, mem pa = mem' pa) :
    translateFrom mem va ls table = translateFrom mem' va ls table := by
  fun_induction translateFrom mem va ls table with
  | case1 => rfl
  | case2 l ls table pa hm =>
    rw [mem_eq_of_agree_on_request htop hreads] at hm
    rw [translateFrom_fails rfl hm]
  | case3 l ls table pa raw hm hk =>
    rw [mem_eq_of_agree_on_request htop hreads] at hm
    rw [translateFrom_invalid rfl hm hk]
  | case4 l ls table pa raw hm hk =>
    rw [mem_eq_of_agree_on_request htop hreads] at hm
    rw [translateFrom_leaf rfl hm hk, leafPhys, physOfPpn_eq]
  | case5 l ls table pa raw hm hk below ih =>
    obtain ⟨hhere, hbelow⟩ := List.forall_mem_append.1 hreads
    rw [mem_eq_of_agree_on_request htop hhere] at hm
    rw [translateFrom_directory rfl hm hk, physOfPpn_eq, ← ih hbelow]

end Sys2Proof.Machine
end

section
/-! XLATE from acceptance to response is `translate` (41_translator R115). -/

namespace Sys2Proof.Machine

theorem levelsFrom_eq (l : Level) : levelsFrom l = l :: l.next?.elim [] levelsFrom := by cases l <;> rfl

theorem core_run_succ {M : Host.Core} {s s' : M.State} (h : M.step s = .next s') (k : Nat) :
    M.run (k + 1) s = M.run k s' := by
  rw [Host.Core.run, h]

/-- What `translate` still has to do, seen from a walk in progress. -/
def walkAhead (s : State) : Walk :=
  translateFrom s.entryAt s.xlVa (levelsFrom s.xlLevel) s.xlTable.toNat

/-- The child's base register holds the table address of `translate` exactly. -/
theorem walkAhead_followDirectory (raw : Word) (l : Level) (s : State) :
    walkAhead (followDirectory raw l s) =
      translateFrom s.entryAt s.xlVa (levelsFrom l) (physOfPpn (ptePpn raw)) := by
  rw [← childBase_toNat]
  rfl

/-- A step of the walk either ends the command with all that `translate` had still to do, or follows a Directory with just one read
of it done. -/
theorem WalkingStill.step_cases {s : State} (hs : WalkingStill s) :
    step s = .next (endCommand (walkAhead s).response { s with reads := s.reads ++ (walkAhead s).reads }) ∨
    ∃ raw l, s.xlLevel.next? = some l ∧ step s = .next (followDirectory raw l s) ∧
      walkAhead s =
        { reads := walkAddr s :: (walkAhead (followDirectory raw l s)).reads
          response := (walkAhead (followDirectory raw l s)).response } := by
  have hpa : walkAddr s = s.xlTable.toNat + 8 * (vaIndex s.xlVa s.xlLevel).toNat := rfl
  rw [walkAhead, levelsFrom_eq s.xlLevel]
  cases hm : s.entryAt (walkAddr s) with
  | none =>
    rw [translateFrom_fails hpa hm]
    exact .inl (hs.step_fails hm)
  | some raw =>
    have hreq := requestFor_of_entryAt hm
    cases hk : pteKind raw with
    | invalid =>
      rw [translateFrom_invalid hpa hm hk, hreq]
      exact .inl (hs.step_invalid hm hk)
    | leaf =>
      rw [translateFrom_leaf hpa hm hk, hreq]
      exact .inl (hs.step_leaf hm hk)
    | directory =>
      rw [translateFrom_directory hpa hm hk, hreq]
      cases hl : s.xlLevel.next? with
      | none => exact .inl (hs.step_malformed hm hk hl)
      | some l =>
        refine .inr ⟨raw, l, rfl, hs.step_follows hm hk hl, ?_⟩
        rw [walkAhead_followDirectory]
        rfl

/-- From a walk in progress to the response, by as many steps at most as there are levels left. -/
theorem WalkingStill.run_eq_walkAhead {s : State} (hs : WalkingStill s) :
    ∃ k t, 1 ≤ k ∧ k ≤ (levelsFrom s.xlLevel).length ∧ Sys2Proof.core.run k s = .next t ∧
      t.reads = s.reads ++ (walkAhead s).reads ∧ endsWith s t (walkAhead s).response := by
  induction hlevels : levelsFrom s.xlLevel generalizing s with
  | nil => rw [levelsFrom_eq] at hlevels; cases hlevels
  | cons l₀ below ih =>
    obtain hend | ⟨raw, l, hnext, hstep, hahead⟩ := hs.step_cases
    case inl =>
      have hrun := core_run_succ (M := Sys2Proof.core) hend 0
      exact ⟨1, _, Nat.le_refl 1, Nat.le_add_left .., hrun, rfl, endsWith_endCommand ..⟩
    case inr =>
      have hbelow : levelsFrom l = below := by
        rw [levelsFrom_eq, hnext] at hlevels
        exact (List.cons.inj hlevels).2
      have hs' : WalkingStill (followDirectory raw l s) := ⟨hs.phase, hs.still, hs.quiet⟩
      obtain ⟨k, t, -, hle, hrun, hreads, hends⟩ := ih hs' hbelow
      refine ⟨k + 1, t, Nat.le_add_left .., Nat.succ_le_succ hle, ?_, ?_, ?_⟩
      · exact (core_run_succ (M := Sys2Proof.core) hstep k).trans hrun
      · rw [hreads, hahead, followDirectory, List.append_assoc, List.singleton_append]
      · rw [hahead]
        exact hends

/-- Settles O21: the run is `run_eq_walkAhead` from the state the acceptance latches, where `walkAhead` is the whole of `translate`; the
other two clauses are the laws of `translateFrom` at the three levels. -/
theorem xlateIsTranslate : Obligations.XlateIsTranslate := by
  refine ⟨fun root va s hidle hstill hquiet => ?run, fun mem root va => translateFrom_reads_length_le ..,
    fun mem mem' root va va' htop hreads hva => ?dependsOnWhatItReads⟩
  case run =>
    have hs : WalkingStill (latchXlate root va s) := ⟨rfl, hstill, hquiet⟩
    obtain ⟨k, t, hpos, hle, hrun⟩ := hs.run_eq_walkAhead
    exact ⟨latchXlate root va s, k, t, accept_idle hidle _, hpos, hle, hrun⟩
  case dependsOnWhatItReads =>
    exact (translateFrom_congr_mem va _ _ htop hreads).trans (translateFrom_congr_va mem' hva _ _)

end Sys2Proof.Machine
end

section
/-! One push to a coalescer, case by case, and the coalescer's commands (42_coalescer R130 to R133). -/

namespace Sys2Proof.Machine

/-- The region from the start of `q` to the end of `t`, with the physical start and the flags of `q`: what R130 makes of a pending `q`
that `t` extends. -/
def spanning (q t : Region) : Region := { vs := q.vs, ve := t.ve, ps := q.ps, fl := q.fl }

theorem coalPush_none (t : Region) : coalPush none t = (some t, none) := rfl

theorem coalPush_of_adjacent {q t : Region} (h : adjacent q t) :
    coalPush (some q) t = (some (spanning q t), none) :=
  if_pos ((mergeable_iff q t).2 h)

theorem coalPush_of_not_adjacent {q t : Region} (h : ¬ adjacent q t) : coalPush (some q) t = (some t, some q) :=
  if_neg fun hm => h ((mergeable_iff q t).1 hm)

/-- From IDLE, CPUSH leaves the outcome of `coalPush` pending and in its response. -/
theorem exec_cpush_of_coalPush {s : State} {before after em : Option Region} {vs ve ps d : Word}
    (hidle : s.phase = .idle) (hp : s.coPending = before)
    (h : coalPush before (pushTuple vs ve ps d) = (after, em)) :
    exec (.cpush vs ve ps d) s =
      .next { s with coPending := after, responses := s.responses ++ [regionResponse em] } := by
  rw [exec, execCpush, accept_idle hidle, pushPending, hp, h, respond, ← hidle]

/-- From IDLE, CFLUSH answers with what was pending and leaves nothing pending. -/
theorem exec_cflush {s : State} (hidle : s.phase = .idle) :
    exec .cflush s =
      .next { s with coPending := none, responses := s.responses ++ [regionResponse s.coPending] } := by
  rw [exec, execCflush, accept_idle hidle, flushPending, respond, coalFlush, ← hidle]

/-- Settles O11: `decode_ok_iff` reads the command; each clause is the push of its case, with `adjacent` as R131's condition. -/
theorem cpushMergesOrEmits : Obligations.CpushMergesOrEmits := by
  intro vs ve ps d s hidle t
  refine ⟨(decode_ok_iff _ _).2 ⟨rfl, rfl, rfl, rfl, rfl⟩, fun hp => ?starts, fun q hp hadj => ?merges,
    fun q hp hadj => ?emits⟩
  case starts => exact exec_cpush_of_coalPush hidle hp (coalPush_none t)
  case merges => exact exec_cpush_of_coalPush hidle hp (coalPush_of_adjacent hadj)
  case emits => exact exec_cpush_of_coalPush hidle hp (coalPush_of_not_adjacent hadj)

/-- Settles O12: `decode_ok_iff` reads the command; both clauses are `exec_cflush`, by what was pending. -/
theorem cflushEmitsThePending : Obligations.CflushEmitsThePending := by
  intro a b c d s hidle
  refine ⟨(decode_ok_iff _ _).2 ⟨rfl, trivial⟩, fun hp => ?absent, fun q hp => ?present⟩
  case absent => rw [exec_cflush hidle, hp, regionResponse, ← hp]
  case present => rw [exec_cflush hidle, hp, regionResponse]

end Sys2Proof.Machine
end

section
/-! A coalescer over an ordered stream (42_coalescer R135). -/

namespace Sys2Proof.Machine

/-! ### The stream, push by push -/

/-- `Coalesces q ts out`: with `q` pending, the pushes of `ts` and a flush emit `out`. -/
inductive Coalesces : Region → List Region → List Region → Prop
  | flush (q : Region) : Coalesces q [] [q]
  | merge {q t : Region} {ts out : List Region} (hadj : adjacent q t) (rest : Coalesces (spanning q t) ts out) :
      Coalesces q (t :: ts) out
  | emit {q t : Region} {ts out : List Region} (hadj : ¬ adjacent q t) (rest : Coalesces t ts out) :
      Coalesces q (t :: ts) (q :: out)

theorem coalRun_coalesces (q : Region) (ts : List Region) : Coalesces q ts (coalRun ts (some q)) := by
  induction ts generalizing q with
  | nil => exact .flush q
  | cons t ts ih =>
    rw [coalRun]
    by_cases hadj : adjacent q t
    · rw [coalPush_of_adjacent hadj]
      exact .merge hadj (ih _)
    · rw [coalPush_of_not_adjacent hadj]
      exact .emit hadj (ih t)

/-- The first tuple of a stream becomes the pending region. -/
theorem coalRun_cons_coalesces (t : Region) (ts : List Region) : Coalesces t ts (coalRun (t :: ts) none) :=
  coalRun_coalesces t ts

/-! ### Emitted regions are unions of runs -/

/-- A run of adjacent tuples from `first` to `last`. Along it the flags and the offset from virtual to physical stay the same, so a
tuple adjacent to the run's union is adjacent to `last`. -/
structure IsRun (run : List Region) (first last : Region) : Prop where
  chain : run.IsChain adjacent
  head : run.head? = some first
  getLast : run.getLast? = some last
  flags : last.fl = first.fl
  offset : (last.ps : Int) - last.vs = (first.ps : Int) - first.vs

theorem IsRun.singleton (t : Region) : IsRun [t] t t :=
  ⟨List.isChain_singleton t, rfl, rfl, rfl, rfl⟩

section
variable {run : List Region} {first last t : Region}

theorem IsRun.adjacent_last (hrun : IsRun run first last) (hadj : adjacent (spanning first last) t) :
    adjacent last t := by
  obtain ⟨hvirt, hflags, hphys⟩ := hadj
  have hoff := hrun.offset
  refine ⟨hvirt, hrun.flags.trans hflags, ?_⟩
  simp only [spanning] at hphys
  omega

theorem IsRun.snoc (hrun : IsRun run first last) (hadj : adjacent (spanning first last) t) :
    IsRun (run ++ [t]) first t := by
  have ⟨hvirt, hflags, hphys⟩ := hadj
  refine ⟨?chain, ?head, List.getLast?_concat, hflags.symm, ?offset⟩
  case chain =>
    refine List.isChain_append.2 ⟨hrun.chain, List.isChain_singleton t, fun a ha b hb => ?_⟩
    obtain rfl : last = a := Option.some.inj (hrun.getLast.symm.trans ha)
    obtain rfl : t = b := Option.some.inj hb
    exact hrun.adjacent_last hadj
  case head => rw [List.head?_append, hrun.head, Option.some_or]
  case offset =>
    simp only [spanning] at hvirt hphys
    omega

end

/-- The region `q` is the union of the run of tuples `run`. -/
def isUnionOf (run : List Region) (q : Region) : Prop :=
  ∃ first last, IsRun run first last ∧ q = spanning first last

/-- R135, items 1 and 2, with `before` the tuples already merged into the pending region. -/
theorem Coalesces.exists_runs {q : Region} {ts out before : List Region} (h : Coalesces q ts out)
    (hq : isUnionOf before q) :
    ∃ runs : List (List Region), runs.flatten = before ++ ts ∧ List.Forall₂ isUnionOf runs out := by
  induction h generalizing before with
  | flush q => exact ⟨[before], by simp, .cons hq .nil⟩
  | @merge q t ts out hadj rest ih =>
    obtain ⟨first, last, hrun, rfl⟩ := hq
    obtain ⟨runs, hflat, hunion⟩ := ih ⟨first, t, hrun.snoc hadj, rfl⟩
    exact ⟨runs, by rw [hflat, List.append_assoc, List.singleton_append], hunion⟩
  | @emit q t ts out hadj rest ih =>
    obtain ⟨runs, hflat, hunion⟩ := ih ⟨t, t, .singleton t, rfl⟩
    exact ⟨before :: runs, by rw [List.flatten_cons, hflat, List.singleton_append], .cons hq hunion⟩

/-- R135, items 1 and 2, for a whole stream. -/
theorem coalRun_exists_runs (ts : List Region) :
    ∃ runs : List (List Region), runs.flatten = ts ∧ List.Forall₂ isUnionOf runs (coalRun ts none) := by
  cases ts with
  | nil => exact ⟨[], rfl, .nil⟩
  | cons t ts => exact (coalRun_cons_coalesces t ts).exists_runs ⟨t, t, .singleton t, rfl⟩

/-- The chains and the ends of the runs, apart. -/
theorem chain_and_ends_of_forall₂_isUnionOf {runs : List (List Region)} {out : List Region}
    (h : List.Forall₂ isUnionOf runs out) :
    (∀ run ∈ runs, run.IsChain adjacent) ∧
      List.Forall₂ (fun run q => ∃ first last, run.head? = some first ∧ run.getLast? = some last ∧
        q = { vs := first.vs, ve := last.ve, ps := first.ps, fl := first.fl }) runs out := by
  rw [← List.forall₂_and_left]
  refine h.imp fun run q hq => ?_
  obtain ⟨first, last, hrun, rfl⟩ := hq
  exact ⟨hrun.chain, first, last, hrun.head, hrun.getLast, rfl⟩

/-! ### The runs are maximal -/

/-- The first region emitted begins as the pending one does: a merge moves the end of the pending region only. -/
theorem Coalesces.head_eq {q : Region} {ts out : List Region} (h : Coalesces q ts out) :
    ∃ t rest, out = spanning q t :: rest := by
  induction h with
  | flush q => exact ⟨q, [], rfl⟩
  | merge hadj rest ih => exact ih
  | emit hadj rest ih => exact ⟨_, _, rfl⟩

/-- R135, item 3. -/
theorem Coalesces.maximal {q : Region} {ts out : List Region} (h : Coalesces q ts out) :
    out.IsChain fun a b => ¬ adjacent a b := by
  induction h with
  | flush q => exact List.isChain_singleton q
  | merge hadj rest ih => exact ih
  | emit hadj rest ih =>
    obtain ⟨t, out, rfl⟩ := rest.head_eq
    exact ih.cons_cons hadj

theorem coalRun_maximal (ts : List Region) : (coalRun ts none).IsChain fun a b => ¬ adjacent a b := by
  cases ts with
  | nil => exact .nil
  | cons t ts => exact (coalRun_cons_coalesces t ts).maximal

/-! ### The order of the regions -/

/-- The order of a stream by its first tuple and the others. -/
theorem orderedTuples_cons {t : Region} {ts : List Region} :
    orderedTuples (t :: ts) ↔ t.vs < t.ve ∧ (∀ u ∈ ts, t.ve ≤ u.vs) ∧ orderedTuples ts := by
  simp only [orderedTuples, List.forall_mem_cons, List.pairwise_cons]
  tauto

/-- A merge leaves the pending region and the tuples to come in order. -/
theorem orderedTuples_spanning {q t : Region} {ts : List Region} (hadj : adjacent q t)
    (h : orderedTuples (q :: t :: ts)) : orderedTuples (spanning q t :: ts) := by
  obtain ⟨hq, -, hts⟩ := orderedTuples_cons.1 h
  obtain ⟨ht, hafter, hts⟩ := orderedTuples_cons.1 hts
  obtain ⟨hvirt, -, -⟩ := hadj
  exact orderedTuples_cons.2 ⟨hq.trans (hvirt ▸ ht), hafter, hts⟩

/-- Every emitted region starts where the pending region or a later tuple starts. -/
theorem Coalesces.start_mem {q r : Region} {ts out : List Region} (h : Coalesces q ts out) (hr : r ∈ out) :
    ∃ t ∈ q :: ts, r.vs = t.vs := by
  induction h with
  | flush q => exact ⟨r, hr, rfl⟩
  | @merge q t ts out hadj rest ih =>
    obtain ⟨u, hu, hvs⟩ := ih hr
    obtain rfl | hu := List.mem_cons.1 hu
    · exact ⟨q, List.mem_cons_self, hvs⟩
    · exact ⟨u, by simp [hu], hvs⟩
  | @emit q t ts out hadj rest ih =>
    obtain rfl | hr := List.mem_cons.1 hr
    · exact ⟨r, List.mem_cons_self, rfl⟩
    · obtain ⟨u, hu, hvs⟩ := ih hr
      exact ⟨u, List.mem_cons_of_mem q hu, hvs⟩

/-- R135, item 4: from an ordered stream the regions come in the order of a stream, each after the end of the one before. -/
theorem Coalesces.ordered {q : Region} {ts out : List Region} (h : Coalesces q ts out)
    (hord : orderedTuples (q :: ts)) : orderedTuples out := by
  induction h with
  | flush q => exact hord
  | merge hadj rest ih => exact ih (orderedTuples_spanning hadj hord)
  | emit hadj rest ih =>
    obtain ⟨hq, hafter, hts⟩ := orderedTuples_cons.1 hord
    refine orderedTuples_cons.2 ⟨hq, fun r hr => ?_, ih hts⟩
    obtain ⟨u, hu, hvs⟩ := rest.start_mem hr
    exact hvs ▸ hafter u hu

theorem coalRun_ordered {ts : List Region} (h : orderedTuples ts) : orderedTuples (coalRun ts none) := by
  cases ts with
  | nil => exact h
  | cons t ts => exact (coalRun_cons_coalesces t ts).ordered h

theorem orderedTuples.pairwise_vs_lt {ts : List Region} (h : orderedTuples ts) :
    ts.Pairwise fun a b => a.vs < b.vs := by
  obtain ⟨hne, hpair⟩ := h
  exact hpair.imp_of_mem fun ha _ hle => (hne _ ha).trans_le hle

/-! ### Each tuple lies in exactly one region -/

/-- The virtual range of `t` lies in that of `q`. -/
def covers (q t : Region) : Prop := q.vs ≤ t.vs ∧ t.ve ≤ q.ve

theorem covers.refl (t : Region) : covers t t := ⟨Nat.le_refl _, Nat.le_refl _⟩

theorem covers.trans {a b c : Region} (hab : covers a b) (hbc : covers b c) : covers a c := by
  obtain ⟨habs, habe⟩ := hab
  obtain ⟨hbcs, hbce⟩ := hbc
  exact ⟨habs.trans hbcs, hbce.trans habe⟩

/-- What a merge makes of two nonempty regions covers both. -/
theorem spanning_covers {q t : Region} (hadj : adjacent q t) (hq : q.vs < q.ve) (ht : t.vs < t.ve) :
    covers (spanning q t) q ∧ covers (spanning q t) t := by
  obtain ⟨hvirt, -, -⟩ := hadj
  exact ⟨⟨Nat.le_refl _, (hvirt ▸ ht).le⟩, ⟨(hvirt ▸ hq).le, Nat.le_refl _⟩⟩

/-- R135, item 4: the pending region and every tuple are in a region emitted. -/
theorem Coalesces.covered {q : Region} {ts out : List Region} (h : Coalesces q ts out)
    (hord : orderedTuples (q :: ts)) : ∀ u ∈ q :: ts, ∃ r ∈ out, covers r u := by
  induction h with
  | flush q => exact fun u hu => ⟨u, hu, covers.refl u⟩
  | @merge q t ts out hadj rest ih =>
    have hspan := ih (orderedTuples_spanning hadj hord)
    obtain ⟨r, hr, hcov⟩ := hspan (spanning q t) List.mem_cons_self
    obtain ⟨hne, -⟩ := hord
    obtain ⟨hcovq, hcovt⟩ := spanning_covers hadj (hne q (by simp)) (hne t (by simp))
    intro u hu
    obtain rfl | rfl | hu : u = q ∨ u = t ∨ u ∈ ts := by simpa using hu
    · exact ⟨r, hr, hcov.trans hcovq⟩
    · exact ⟨r, hr, hcov.trans hcovt⟩
    · exact hspan u (List.mem_cons_of_mem _ hu)
  | @emit q t ts out hadj rest ih =>
    obtain ⟨-, -, hts⟩ := orderedTuples_cons.1 hord
    intro u hu
    obtain rfl | hu := List.mem_cons.1 hu
    · exact ⟨u, List.mem_cons_self, covers.refl u⟩
    · obtain ⟨r, hr, hcov⟩ := ih hts u hu
      exact ⟨r, List.mem_cons_of_mem q hr, hcov⟩

theorem coalRun_covered {ts : List Region} (h : orderedTuples ts) :
    ∀ u ∈ ts, ∃ r ∈ coalRun ts none, covers r u := by
  cases ts with
  | nil => exact fun _ hu => nomatch hu
  | cons t ts => exact (coalRun_cons_coalesces t ts).covered h

/-- Two regions whose virtual ranges do not overlap. -/
def apart (a b : Region) : Prop := a.ve ≤ b.vs ∨ b.ve ≤ a.vs

theorem orderedTuples.apart_of_ne {qs : List Region} {q q' : Region} (h : orderedTuples qs) (hq : q ∈ qs)
    (hq' : q' ∈ qs) (hne : q ≠ q') : apart q q' := by
  obtain ⟨-, hpair⟩ := h
  have hsymm : Std.Symm apart := ⟨fun _ _ => Or.symm⟩
  have hapart : qs.Pairwise apart := hpair.imp Or.inl
  exact hapart.forall hq hq' hne

/-- Two regions of an ordered list that share a nonempty range are one. -/
theorem orderedTuples.eq_of_covers {qs : List Region} {q q' t : Region} (h : orderedTuples qs) (hq : q ∈ qs)
    (hq' : q' ∈ qs) (ht : t.vs < t.ve) (hcov : covers q t) (hcov' : covers q' t) : q = q' := by
  by_contra hne
  have hapart := h.apart_of_ne hq hq' hne
  unfold apart at hapart
  obtain ⟨hstart, hend⟩ := hcov
  obtain ⟨hstart', hend'⟩ := hcov'
  omega

/-- R135, item 4, for a whole stream. -/
theorem coalRun_existsUnique_covers {ts : List Region} (h : orderedTuples ts) {t : Region} (ht : t ∈ ts) :
    ∃! q, q ∈ coalRun ts none ∧ covers q t := by
  have hout := coalRun_ordered h
  obtain ⟨q, hq, hcov⟩ := coalRun_covered h t ht
  obtain ⟨hne, -⟩ := h
  exact ⟨q, ⟨hq, hcov⟩, fun q' ⟨hq', hcov'⟩ => hout.eq_of_covers hq' hq (hne t ht) hcov' hcov⟩

/-- Settles O13: the runs are those of `coalRun_exists_runs`; the emitted regions are maximal (`coalRun_maximal`) and in order
(`coalRun_ordered`); that each tuple lies in exactly one of them is `coalRun_existsUnique_covers`. -/
theorem coalescerEmitsMaximalRuns : Obligations.CoalescerEmitsMaximalRuns := by
  intro ts hts
  obtain ⟨runs, hflat, hunion⟩ := coalRun_exists_runs ts
  obtain ⟨hchain, hends⟩ := chain_and_ends_of_forall₂_isUnionOf hunion
  exact ⟨⟨runs, hflat, hchain, hends⟩, coalRun_maximal ts, (coalRun_ordered hts).pairwise_vs_lt,
    fun t ht => coalRun_existsUnique_covers hts ht⟩

end Sys2Proof.Machine
end

section
/-! The steps of a DUMP (43_dump R152, R153, R155 to R160): the read of a table entry, and a scanned entry of each kind. -/

namespace Sys2Proof.Machine

/-! ### The step in phase DRUN -/

section
variable {s : State}

theorem step_eq_scanStep (hphase : s.phase = .drun) (hquiet : s.inputs = []) : step s = scanStep s := by
  unfold step fetch progress
  rw [hquiet, hphase]

theorem step_of_loading {ld : Loading} (hphase : s.phase = .drun) (hquiet : s.inputs = [])
    (hload : s.drLoad = some ld) : step s = .next (loadStep ld s) := by
  rw [step_eq_scanStep hphase hquiet, scanStep, hload]

theorem step_of_frame {f : Frame} {below : List Frame} (hphase : s.phase = .drun) (hquiet : s.inputs = [])
    (hload : s.drLoad = none) (hstack : s.drStack = f :: below) : step s = .next (frameStep f below s) := by
  rw [step_eq_scanStep hphase hquiet, scanStep, hload, hstack]

/-! ### A read of a table, for each answer of the accessor -/

theorem loadStep_fails {ld : Loading} (hstill : s.disturbed = false) (h : s.entryAt (loadAddr ld) = none) :
    loadStep ld s =
      raiseHostMemoryError (loadAddr ld) { s with reads := s.reads ++ requestFor (loadAddr ld) } := by
  rw [loadStep, readEntry_still hstill, h]

theorem loadStep_of_entryAt_some {ld : Loading} {raw : Word} (hstill : s.disturbed = false)
    (h : s.entryAt (loadAddr ld) = some raw) :
    loadStep ld s = storeEntry ld raw { s with reads := s.reads ++ requestFor (loadAddr ld) } := by
  rw [loadStep, readEntry_still hstill, h]

end

/-! ### A scanned entry, by its kind -/

/-- The state after the scan has gone past the top frame's entry, leaving the coalescer `c` and emitting `evs`. -/
def scannedPast (f : Frame) (below : List Frame) (c : Option Region) (evs : List Event) (s : State) : State :=
  { s with drStack := advance f c :: below, events := s.events ++ evs }

section
variable {f : Frame} {below : List Frame} {raw : Word} {s : State}

/-- R155. -/
theorem scanEntry_leaf (hk : pteKind raw = .leaf) :
    scanEntry f below raw s =
      scannedPast f below (coalPush f.coal (leafTuple f.voff f.level f.idx raw)).1
        (regionEvents f.level (coalPush f.coal (leafTuple f.voff f.level f.idx raw)).2) s := by
  simp only [scanEntry, hk, emitRegion_eq, scannedPast]

/-- R156. -/
theorem scanEntry_directory {l : Level} (hk : pteKind raw = .directory) (hl : f.level.next? = some l) :
    scanEntry f below raw s =
      enterTable (childBase raw) l (entryStart f.voff f.level f.idx)
        (scannedPast f below none
          (regionEvents f.level f.coal ++
            [.dir f.level f.idx (entryStart f.voff f.level f.idx) (physOfPpn (ptePpn raw))]) s) := by
  simp only [scanEntry, hk, hl, emitRegion_eq, coalFlush, emit, scannedPast, List.append_assoc]

/-- R157. -/
theorem scanEntry_malformed (hk : pteKind raw = .directory) (hl : f.level.next? = none) :
    scanEntry f below raw s =
      scannedPast f below none
        (regionEvents f.level f.coal ++ [.malformed f.level f.idx (entryStart f.voff f.level f.idx) raw]) s := by
  simp only [scanEntry, hk, hl, emitRegion_eq, coalFlush, emit, scannedPast, List.append_assoc]

/-- R159. -/
theorem scanEntry_invalid (hk : pteKind raw = .invalid) :
    scanEntry f below raw s =
      scannedPast f below none
        (regionEvents f.level f.coal ++ [.invalid f.level f.idx (entryStart f.voff f.level f.idx) raw]) s := by
  simp only [scanEntry, hk, emitRegion_eq, coalFlush, emit, scannedPast, List.append_assoc]

theorem processed_iff : processed s.drShow raw = true ↔ isProcessed s raw := by
  unfold processed isProcessed pteV
  cases s.drShow <;> simp

theorem frameStep_skips (h : f.tbl[f.idx]? = some raw) (hp : ¬ processed s.drShow raw = true) :
    frameStep f below s = scannedPast f below f.coal [] s := by
  simp only [frameStep, h, hp, scannedPast, List.append_nil]
  rfl

theorem frameStep_scans (h : f.tbl[f.idx]? = some raw) (hp : processed s.drShow raw = true) :
    frameStep f below s = scanEntry f below raw s := by
  simp only [frameStep, h, hp, if_true]

/-- A processed entry of the top frame takes the step that its kind says. -/
theorem scansEntry.step_eq (h : scansEntry s f below raw) (hp : isProcessed s raw) :
    step s = .next (scanEntry f below raw s) := by
  obtain ⟨hphase, hquiet, hload, hstack, hraw⟩ := h
  rw [step_of_frame hphase hquiet hload hstack, frameStep_scans hraw (processed_iff.2 hp)]

end

/-! ### Coalescers while a table is being read -/

/-- Only the top frame of a scan stack can hold a pending region. -/
theorem stackOk.coal_eq_none {fs : List Frame} (hfs : stackOk fs)
    (htop : ∀ g rest, fs = g :: rest → g.coal = none) : ∀ g ∈ fs, g.coal = none := by
  induction fs with
  | nil => exact fun _ hg => nomatch hg
  | cons f fs ih =>
    refine List.forall_mem_cons.2 ⟨htop f fs rfl, ?_⟩
    cases fs with
    | nil => exact fun _ hg => nomatch hg
    | cons g below =>
      obtain ⟨-, -, hg, hbelow⟩ := hfs
      exact ih hbelow fun _ _ heq => (List.cons.inj heq).1 ▸ hg

theorem Invariant.coal_eq_none_of_loading {s : State} {ld : Loading} (h : Invariant s) (hphase : s.phase = .drun)
    (hload : s.drLoad = some ld) : ∀ g ∈ s.drStack, g.coal = none := by
  obtain ⟨-, hseq, -⟩ := h
  unfold sequencerOk at hseq
  rw [hphase] at hseq
  obtain ⟨hstack, -, hloading⟩ := hseq
  obtain ⟨-, -, htop⟩ := hloading ld hload
  exact hstack.coal_eq_none fun g rest heq => (htop g rest heq).2

/-- Settles O24: the step is `loadStep_fails`, whose end keeps what `endsWith` names; the last clause is
`coal_eq_none_of_loading`. -/
theorem failedReadAbortsTheDump : Obligations.FailedReadAbortsTheDump := by
  intro s ld hphase hstill hquiet hload hfail
  have hstep := step_of_loading hphase hquiet hload
  rw [loadStep_fails hstill hfail] at hstep
  exact ⟨_, hstep, rfl, rfl, endsWith_endCommand .., fun hinv => hinv.coal_eq_none_of_loading hphase hload⟩

/-- Settles O26: the step is `scanEntry_leaf`; each clause is the push of its case. -/
theorem leafEntryFeedsItsCoalescer : Obligations.LeafEntryFeedsItsCoalescer := by
  intro s f below raw hscan hp hk t
  have hstep : step s =
      .next (scannedPast f below (coalPush f.coal t).1 (regionEvents f.level (coalPush f.coal t).2) s) := by
    rw [hscan.step_eq hp, scanEntry_leaf hk]
    rfl
  refine ⟨fun hc => ?starts, fun q hc hadj => ?merges, fun q hc hadj => ?breaks⟩
  case starts =>
    rw [hstep, hc, coalPush_none, scannedPast, regionEvents, List.append_nil, advance]
  case merges =>
    rw [hstep, hc, coalPush_of_adjacent hadj, scannedPast, regionEvents, List.append_nil, advance, spanning]
  case breaks =>
    rw [hstep, hc, coalPush_of_not_adjacent hadj, scannedPast, regionEvents, advance]

/-- Settles O28: the step is `scanEntry_malformed`, level 2 having no level below. -/
theorem levelTwoDirectoryIsMalformed : Obligations.LevelTwoDirectoryIsMalformed := by
  intro s f below raw hscan hp hk hl
  rw [hscan.step_eq hp, scanEntry_malformed hk (by rw [hl, Level.next?]), scannedPast, advance, entryStart, hl]

end Sys2Proof.Machine
end

section
/-! Runs of the machine, and what a part of a DUMP leaves of the state (43_dump R153, R158, R160). -/

namespace Sys2Proof.Machine

/-! ### Runs -/

/-- Some number of steps leads from `s` to `t`. -/
def Reaches (s t : State) : Prop := ∃ k, Sys2Proof.core.run k s = .next t

theorem Reaches.refl (s : State) : Reaches s s := ⟨0, rfl⟩

theorem Reaches.head {s s' t : State} (h : step s = .next s') (hr : Reaches s' t) : Reaches s t := by
  obtain ⟨k, hk⟩ := hr
  exact ⟨k + 1, (core_run_succ (M := Sys2Proof.core) h k).trans hk⟩

theorem core_run_add {M : Host.Core} {s t u : M.State} {j k : Nat} (hst : M.run j s = .next t)
    (htu : M.run k t = .next u) : M.run (j + k) s = .next u := by
  induction j generalizing s with
  | zero =>
    cases hst
    rwa [Nat.zero_add]
  | succ j ih =>
    unfold Host.Core.run at hst
    split at hst
    case h_1 s' hstep =>
      rw [Nat.succ_add, core_run_succ hstep]
      exact ih hst
    all_goals cases hst

theorem Reaches.trans {s t u : State} (hst : Reaches s t) (htu : Reaches t u) : Reaches s u := by
  obtain ⟨j, hj⟩ := hst
  obtain ⟨k, hk⟩ := htu
  exact ⟨j + k, core_run_add hj hk⟩

/-! ### A DUMP in progress, and what a part of it leaves -/

/-- A DUMP of the memory `mem` is in progress, no table is being read, the target has held still and nothing is presented. -/
structure Dumping (mem : Nat → Option Word) (si : Bool) (s : State) : Prop where
  phase : s.phase = .drun
  still : s.disturbed = false
  quiet : s.inputs = []
  notLoading : s.drLoad = none
  entryAt_eq : s.entryAt = mem
  show_eq : s.drShow = si

/-- The requests and the events of a part of a DUMP have left the block. -/
def logged (sc : Scan) (s : State) : State :=
  { s with reads := s.reads ++ sc.reads, events := s.events ++ sc.events }

/-- R153: a frame is pushed. -/
def pushFrame (f : Frame) (s : State) : State := { s with drStack := f :: s.drStack }

/-- R158: the scan goes on with the frames that are left; where none is, the DUMP ends. -/
def resume (s : State) : State :=
  match s.drStack with
  | [] => endCommand { status := .ok } s
  | _ :: _ => s

/-- What the scan `sc` of a table leaves of the state `s` with the table not yet entered: R158, or R160 where a read failed. -/
def afterTable (sc : Scan) (s : State) : State :=
  match sc.failed with
  | none => resume (logged sc s)
  | some pa => raiseHostMemoryError pa (logged sc s)

section
variable {mem : Nat → Option Word} {si : Bool} {s : State}

protected theorem Dumping.logged (hs : Dumping mem si s) (sc : Scan) : Dumping mem si (logged sc s) :=
  ⟨hs.phase, hs.still, hs.quiet, hs.notLoading, hs.entryAt_eq, hs.show_eq⟩

protected theorem Dumping.pushFrame (hs : Dumping mem si s) (f : Frame) : Dumping mem si (pushFrame f s) :=
  ⟨hs.phase, hs.still, hs.quiet, hs.notLoading, hs.entryAt_eq, hs.show_eq⟩

end

theorem logged_scanEmits (evs : List Event) (s : State) :
    logged (scanEmits evs) s = { s with events := s.events ++ evs } := by
  rw [logged, scanEmits, List.append_nil]

theorem reads_eq_logged (rs : List Nat) (failed : Option Nat) (s : State) :
    ({ s with reads := s.reads ++ rs } : State) = logged { reads := rs, events := [], failed := failed } s := by
  rw [logged, List.append_nil]

/-- With no frame left, the DUMP ends with R161's response, whether a read failed or not. -/
theorem afterTable_of_stack_nil {s : State} (h : s.drStack = []) (sc : Scan) :
    afterTable sc s = endCommand (dumpResponse sc) (logged sc s) := by
  unfold afterTable dumpResponse
  cases sc.failed with
  | none =>
    have hl : (logged sc s).drStack = [] := h
    simp only [resume, hl]
  | some pa => rfl

theorem afterTable_pushFrame_of_ok {sc : Scan} (h : sc.failed = none) (f : Frame) (s : State) :
    afterTable sc (pushFrame f s) = pushFrame f (logged sc s) := by
  rw [afterTable, h]
  rfl

/-- The stack does not outlive a failed read. -/
theorem afterTable_pushFrame_of_failed {sc : Scan} {pa : Nat} (h : sc.failed = some pa) (f : Frame) (s : State) :
    afterTable sc (pushFrame f s) = afterTable sc s := by
  rw [afterTable, afterTable, h]
  rfl

theorem scanThen_of_failed {a : Scan} {pa : Nat} (h : a.failed = some pa) (b : Scan) : scanThen a b = a := by
  simp only [scanThen, h]

theorem afterTable_scanThen {a : Scan} (h : a.failed = none) (b : Scan) (s : State) :
    afterTable (scanThen a b) s = afterTable b (logged a s) := by
  simp only [afterTable, scanThen, h, logged, List.append_assoc]

end Sys2Proof.Machine
end

section
/-! The reading of a table in a DUMP is `readTable` (43_dump R153). -/

namespace Sys2Proof.Machine

/-- The frame over a table of which `ld` has read the entries (R153). -/
def Loading.frame (ld : Loading) : Frame :=
  { base := ld.base, level := ld.level, voff := ld.voff, tbl := ld.got, idx := 0, coal := none }

/-- The table `ld` is being read, or is read whole and its frame pushed (R153). -/
def withTable (ld : Loading) (s : State) : State :=
  if ld.got.length < Config.entries then { s with drLoad := some ld }
  else pushFrame ld.frame { s with drLoad := none }

/-- What `readTable`, from where `ld` stands, leaves of the state `s` with the table not yet entered. -/
def afterReading (ld : Loading) (s : State) : List Nat × Except Nat (List Word) → State
  | (rs, .ok words) => pushFrame { ld with got := ld.got ++ words }.frame { s with reads := s.reads ++ rs }
  | (rs, .error pa) => raiseHostMemoryError pa { s with reads := s.reads ++ rs }

theorem enterTable_eq_withTable (base : Word) (l : Level) (voff : Nat) (s : State) :
    enterTable base l voff s = withTable { base := base, level := l, voff := voff, got := [] } s :=
  (if_pos (by rw [List.length_nil]; decide)).symm

section
variable {mem : Nat → Option Word} {si : Bool} {s : State}

theorem readTable_fails {ld : Loading} (n : Nat) (h : mem (loadAddr ld) = none) :
    readTable mem ld.base.toNat (n + 1) ld.got.length = (requestFor (loadAddr ld), .error (loadAddr ld)) := by
  have hm : mem (ld.base.toNat + 8 * ld.got.length) = none := h
  simp only [readTable, hm, loadAddr, entryAddr]

/-- One entry of `readTable` read: the rest is read from the next entry on. -/
theorem afterReading_succ {ld : Loading} {raw : Word} (n : Nat) (h : mem (loadAddr ld) = some raw) :
    afterReading ld s (readTable mem ld.base.toNat (n + 1) ld.got.length) =
      afterReading { ld with got := ld.got ++ [raw] } { s with reads := s.reads ++ requestFor (loadAddr ld) }
        (readTable mem ld.base.toNat n (ld.got ++ [raw]).length) := by
  have hm : mem (ld.base.toNat + 8 * ld.got.length) = some raw := h
  rw [List.length_append, List.length_singleton]
  simp only [readTable, hm, loadAddr, entryAddr]
  rcases readTable mem ld.base.toNat n (ld.got.length + 1) with ⟨rs, pa | words⟩ <;>
    simp [afterReading, Loading.frame]

/-- While entries are missing, a step of the block is a read of the table, from the memory `mem`. -/
theorem Dumping.step_withTable (hs : Dumping mem si s) {ld : Loading} (hlt : ld.got.length < Config.entries) :
    step (withTable ld s) = .next (loadStep ld { s with drLoad := some ld }) ∧
      State.entryAt { s with drLoad := some ld } = mem := by
  rw [withTable, if_pos hlt]
  exact ⟨step_of_loading (s := { s with drLoad := some ld }) hs.phase hs.quiet rfl, hs.entryAt_eq⟩

/-- The read of the next entry fails: R160, whatever of the table was read before. -/
theorem Dumping.step_withTable_fails (hs : Dumping mem si s) {ld : Loading} (hlt : ld.got.length < Config.entries)
    (hm : mem (loadAddr ld) = none) :
    step (withTable ld s) =
      .next (raiseHostMemoryError (loadAddr ld) { s with reads := s.reads ++ requestFor (loadAddr ld) }) := by
  obtain ⟨hstep, hmem⟩ := hs.step_withTable hlt
  rw [hstep, loadStep_fails (s := { s with drLoad := some ld }) hs.still (hmem ▸ hm)]
  rfl

theorem Dumping.step_withTable_reads (hs : Dumping mem si s) {ld : Loading} {raw : Word}
    (hlt : ld.got.length < Config.entries) (hm : mem (loadAddr ld) = some raw) :
    step (withTable ld s) =
      .next (withTable { ld with got := ld.got ++ [raw] }
        { s with reads := s.reads ++ requestFor (loadAddr ld) }) := by
  obtain ⟨hstep, hmem⟩ := hs.step_withTable hlt
  rw [hstep, loadStep_of_entryAt_some (s := { s with drLoad := some ld }) hs.still (hmem ▸ hm)]
  rfl

/-- The block reads a table as `readTable` does: in ascending index, up to the last entry or a failed read. -/
theorem Dumping.reaches_afterReading (hs : Dumping mem si s) (ld : Loading) (n : Nat)
    (hn : ld.got.length + n = Config.entries) :
    Reaches (withTable ld s) (afterReading ld s (readTable mem ld.base.toNat n ld.got.length)) := by
  induction n generalizing ld s with
  | zero =>
    rw [withTable, if_neg (by omega), ← hs.notLoading, readTable, afterReading, List.append_nil, List.append_nil]
    exact .refl _
  | succ n ih =>
    cases hm : mem (loadAddr ld) with
    | none =>
      rw [readTable_fails n hm]
      exact (Reaches.refl _).head (hs.step_withTable_fails (by omega) hm)
    | some raw =>
      have hs' : Dumping mem si { s with reads := s.reads ++ requestFor (loadAddr ld) } :=
        ⟨hs.phase, hs.still, hs.quiet, hs.notLoading, hs.entryAt_eq, hs.show_eq⟩
      have hn' : (ld.got ++ [raw]).length + n = Config.entries := by
        rw [List.length_append, List.length_singleton]
        omega
      rw [afterReading_succ n hm]
      exact (ih hs' { ld with got := ld.got ++ [raw] } hn').head (hs.step_withTable_reads (by omega) hm)

end

end Sys2Proof.Machine
end

section
/-! The scan of a frame in a DUMP, an entry at a time, is the loop of `dumpTable` (43_dump R161). -/

namespace Sys2Proof.Machine

/-- What `dumpTable`'s loop still has to do for the frame `f`. -/
def frameAhead (child : Nat → Nat → Scan) (si : Bool) (f : Frame) : Scan :=
  scanEntries child f.level si f.voff (f.tbl.drop f.idx) f.idx f.coal

section
variable {child : Nat → Nat → Scan} {si : Bool} {f : Frame} {raw : Word}

theorem drop_idx_of_entry (h : f.tbl[f.idx]? = some raw) : f.tbl.drop f.idx = raw :: f.tbl.drop (f.idx + 1) := by
  obtain ⟨hlt, hraw⟩ := List.getElem?_eq_some_iff.1 h
  rw [List.drop_eq_getElem_cons hlt, hraw]

theorem frameAhead_end (h : f.tbl[f.idx]? = none) :
    frameAhead child si f = scanEmits (regionEvents f.level f.coal) := by
  rw [frameAhead, List.drop_eq_nil_of_le (List.getElem?_eq_none_iff.1 h), scanEntries, coalFlush_snd]

theorem frameAhead_skip (h : f.tbl[f.idx]? = some raw) (hp : ¬ processed si raw = true) :
    frameAhead child si f = scanThen (scanEmits []) (frameAhead child si (advance f f.coal)) := by
  rw [frameAhead, drop_idx_of_entry h]
  simp only [scanEntries, hp]
  rfl

theorem frameAhead_leaf (h : f.tbl[f.idx]? = some raw) (hp : processed si raw = true) (hk : pteKind raw = .leaf) :
    frameAhead child si f =
      scanThen (scanEmits (regionEvents f.level (coalPush f.coal (leafTuple f.voff f.level f.idx raw)).2))
        (frameAhead child si (advance f (coalPush f.coal (leafTuple f.voff f.level f.idx raw)).1)) := by
  rw [frameAhead, drop_idx_of_entry h]
  simp only [scanEntries, hp, hk]
  rfl

theorem frameAhead_directory {l : Level} (h : f.tbl[f.idx]? = some raw) (hp : processed si raw = true)
    (hk : pteKind raw = .directory) (hl : f.level.next? = some l) :
    frameAhead child si f =
      scanThen
        (scanEmits (regionEvents f.level f.coal ++
          [.dir f.level f.idx (entryStart f.voff f.level f.idx) (physOfPpn (ptePpn raw))]))
        (scanThen (child (physOfPpn (ptePpn raw)) (entryStart f.voff f.level f.idx))
          (frameAhead child si (advance f none))) := by
  rw [frameAhead, drop_idx_of_entry h]
  simp only [scanEntries, hp, hk, hl]
  rfl

theorem frameAhead_malformed (h : f.tbl[f.idx]? = some raw) (hp : processed si raw = true)
    (hk : pteKind raw = .directory) (hl : f.level.next? = none) :
    frameAhead child si f =
      scanThen
        (scanEmits (regionEvents f.level f.coal ++
          [.malformed f.level f.idx (entryStart f.voff f.level f.idx) raw]))
        (frameAhead child si (advance f none)) := by
  rw [frameAhead, drop_idx_of_entry h]
  simp only [scanEntries, hp, hk, hl]
  rfl

theorem frameAhead_invalid (h : f.tbl[f.idx]? = some raw) (hp : processed si raw = true)
    (hk : pteKind raw = .invalid) :
    frameAhead child si f =
      scanThen
        (scanEmits (regionEvents f.level f.coal ++
          [.invalid f.level f.idx (entryStart f.voff f.level f.idx) raw]))
        (frameAhead child si (advance f none)) := by
  rw [frameAhead, drop_idx_of_entry h]
  simp only [scanEntries, hp, hk]
  rfl

end

theorem endTable_pushFrame (f : Frame) (s : State) :
    endTable f s.drStack (pushFrame f s) = resume { s with events := s.events ++ regionEvents f.level f.coal } := by
  simp only [endTable, emitRegion_eq, coalFlush_snd, resume]
  cases s.drStack <;> rfl

theorem scannedPast_pushFrame (f : Frame) (c : Option Region) (evs : List Event) (s : State) :
    scannedPast f s.drStack c evs (pushFrame f s) = pushFrame (advance f c) (logged (scanEmits evs) s) := by
  rw [logged_scanEmits]
  rfl

section
variable {mem : Nat → Option Word} {si : Bool} {s : State}

theorem Dumping.step_pushFrame (hs : Dumping mem si s) (f : Frame) :
    step (pushFrame f s) = .next (frameStep f s.drStack (pushFrame f s)) :=
  step_of_frame (s := pushFrame f s) hs.phase hs.quiet hs.notLoading rfl

/-- R158: behind its last entry the table ends, with the last of `frameAhead` done. -/
theorem Dumping.step_ends (hs : Dumping mem si s) (child : Nat → Nat → Scan) {f : Frame} (h : f.tbl[f.idx]? = none) :
    step (pushFrame f s) = .next (afterTable (frameAhead child si f) s) := by
  rw [hs.step_pushFrame, frameStep, h, frameAhead_end h, afterTable, logged_scanEmits, ← endTable_pushFrame]
  rfl

/-- A step over an entry goes past it, or opens a child table: either time with just that much of `frameAhead` done. -/
theorem Dumping.step_entry_cases (hs : Dumping mem si s) (child : Nat → Nat → Scan) {f : Frame} {raw : Word}
    (h : f.tbl[f.idx]? = some raw) :
    (∃ c evs, step (pushFrame f s) = .next (pushFrame (advance f c) (logged (scanEmits evs) s)) ∧
      frameAhead child si f = scanThen (scanEmits evs) (frameAhead child si (advance f c))) ∨
    ∃ l evs, f.level.next? = some l ∧
      step (pushFrame f s) =
        .next (enterTable (childBase raw) l (entryStart f.voff f.level f.idx)
          (pushFrame (advance f none) (logged (scanEmits evs) s))) ∧
      frameAhead child si f =
        scanThen (scanEmits evs)
          (scanThen (child (childBase raw).toNat (entryStart f.voff f.level f.idx))
            (frameAhead child si (advance f none))) := by
  obtain rfl : s.drShow = si := hs.show_eq
  rw [hs.step_pushFrame]
  by_cases hp : processed s.drShow raw = true
  case neg =>
    rw [frameStep_skips (s := pushFrame f s) h hp, scannedPast_pushFrame]
    exact .inl ⟨_, _, rfl, frameAhead_skip h hp⟩
  case pos =>
    rw [frameStep_scans (s := pushFrame f s) h hp]
    cases hk : pteKind raw with
    | invalid =>
      rw [scanEntry_invalid hk, scannedPast_pushFrame]
      exact .inl ⟨_, _, rfl, frameAhead_invalid h hp hk⟩
    | leaf =>
      rw [scanEntry_leaf hk, scannedPast_pushFrame]
      exact .inl ⟨_, _, rfl, frameAhead_leaf h hp hk⟩
    | directory =>
      cases hl : f.level.next? with
      | none =>
        rw [scanEntry_malformed hk hl, scannedPast_pushFrame]
        exact .inl ⟨_, _, rfl, frameAhead_malformed h hp hk hl⟩
      | some l =>
        rw [scanEntry_directory hk hl, scannedPast_pushFrame, childBase_toNat]
        exact .inr ⟨l, _, rfl, rfl, frameAhead_directory h hp hk hl⟩

end

end Sys2Proof.Machine
end

section
/-! DUMP from acceptance to response is `dumpTable` (43_dump R161), level by level. -/

namespace Sys2Proof.Machine

/-- `child` is what the block does, over the memory `mem`, with a table at level `l`: whatever lies below it on the stack, whatever has
left the block before. -/
def CarriesOut (mem : Nat → Option Word) (si : Bool) (l : Level) (child : Nat → Nat → Scan) : Prop :=
  ∀ (s : State) (base : Word) (voff : Nat), Dumping mem si s →
    Reaches (enterTable base l voff s) (afterTable (child base.toNat voff) s)

/-- One step goes past an entry, to a frame with one entry less to scan. -/
theorem drop_idx_advance {f : Frame} {raw : Word} {words : List Word} (c : Option Region)
    (h : f.tbl.drop f.idx = raw :: words) : (advance f c).tbl.drop (advance f c).idx = words := by
  rw [advance, ← List.tail_drop, h, List.tail_cons]

/-- The block scans a frame as `dumpTable`'s loop does, the child tables being carried out. -/
theorem Dumping.reaches_afterFrame {mem : Nat → Option Word} {si : Bool} {s : State} (hs : Dumping mem si s)
    {child : Nat → Nat → Scan} (f : Frame) (hchild : ∀ l, f.level.next? = some l → CarriesOut mem si l child) :
    Reaches (pushFrame f s) (afterTable (frameAhead child si f) s) := by
  induction hwords : f.tbl.drop f.idx generalizing f s with
  | nil =>
    have hnone : f.tbl[f.idx]? = none := by rw [← List.head?_drop, hwords, List.head?_nil]
    exact (Reaches.refl _).head (hs.step_ends child hnone)
  | cons raw words ih =>
    have hraw : f.tbl[f.idx]? = some raw := by rw [← List.head?_drop, hwords, List.head?_cons]
    have hnext (c : Option Region) := drop_idx_advance c hwords
    obtain ⟨c, evs, hstep, hahead⟩ | ⟨l, evs, hl, hstep, hahead⟩ := hs.step_entry_cases child hraw
    · rw [hahead, afterTable_scanThen rfl]
      exact (ih (hs.logged _) (advance f c) hchild (hnext c)).head hstep
    · have hrest : Dumping mem si (pushFrame (advance f none) (logged (scanEmits evs) s)) :=
        (hs.logged _).pushFrame _
      have hbelow := (hchild l hl _ (childBase raw) (entryStart f.voff f.level f.idx) hrest).head hstep
      rw [hahead, afterTable_scanThen rfl]
      cases hfail : (child (childBase raw).toNat (entryStart f.voff f.level f.idx)).failed with
      | none =>
        rw [afterTable_pushFrame_of_ok hfail] at hbelow
        rw [afterTable_scanThen hfail]
        exact hbelow.trans (ih ((hs.logged _).logged _) (advance f none) hchild (hnext none))
      | some pa =>
        rw [afterTable_pushFrame_of_failed hfail] at hbelow
        rwa [scanThen_of_failed hfail]

section
variable {mem : Nat → Option Word} {si : Bool} {l : Level} {ls : List Level} {base voff : Nat} {rs : List Nat}

theorem dumpTable_of_error {pa : Nat} (h : readTable mem base Config.entries 0 = (rs, .error pa)) :
    dumpTable mem si (l :: ls) base voff = { reads := rs, events := [], failed := some pa } := by
  simp only [dumpTable, h]

theorem dumpTable_of_ok {words : List Word} (h : readTable mem base Config.entries 0 = (rs, .ok words)) :
    dumpTable mem si (l :: ls) base voff =
      scanThen { reads := rs, events := [], failed := none }
        (scanEntries (dumpTable mem si ls) l si voff words 0 none) := by
  simp only [dumpTable, h]

end

/-- The block carries out `dumpTable` at every level. -/
theorem carriesOut_dumpTable (mem : Nat → Option Word) (si : Bool) (l : Level) :
    CarriesOut mem si l (dumpTable mem si (levelsFrom l)) := by
  induction hlevels : levelsFrom l generalizing l with
  | nil => rw [levelsFrom_eq] at hlevels; cases hlevels
  | cons l₀ below ih =>
    rw [levelsFrom_eq] at hlevels
    obtain ⟨rfl, hbelow⟩ := List.cons.inj hlevels
    intro s base voff hs
    have hread := hs.reaches_afterReading { base := base, level := l, voff := voff, got := [] } Config.entries
      (Nat.zero_add _)
    rw [enterTable_eq_withTable]
    rcases htable : readTable mem base.toNat Config.entries 0 with ⟨rs, pa | words⟩
    · rw [List.length_nil, htable, afterReading, reads_eq_logged rs (some pa)] at hread
      rw [dumpTable_of_error htable]
      exact hread
    · rw [List.length_nil, htable, afterReading, reads_eq_logged rs none] at hread
      rw [dumpTable_of_ok htable, afterTable_scanThen rfl]
      refine hread.trans ((hs.logged _).reaches_afterFrame _ fun l' hl => ?_)
      have hnext : l.next? = some l' := hl
      rw [hnext] at hbelow
      exact ih l' hbelow

/-- The block in DRUN for a DUMP that has entered no table yet. -/
def dumpStart (si : Bool) (s : State) : State := { s with phase := .drun, drShow := si, drLoad := none }

theorem exec_dumpInstr {l : Level} {si : Bool} {base voff : Word} {s : State} (hidle : s.phase = .idle) :
    exec (dumpInstr l si base voff) s = .next (enterTable base l voff.toNat (dumpStart si s)) := by
  cases l <;> exact accept_idle hidle _

/-- Settles O31: the acceptance enters the table, which `carriesOut_dumpTable` carries out; with no frame below, what that leaves is the
DUMP's end. -/
theorem dumpIsDumpTable : Obligations.DumpIsDumpTable := by
  intro l si base voff s hidle hstill hquiet hstack
  have hs : Dumping s.entryAt si (dumpStart si s) := ⟨rfl, hstill, hquiet, rfl, rfl, rfl⟩
  have hreach := carriesOut_dumpTable s.entryAt si l _ base voff.toNat hs
  rw [afterTable_of_stack_nil (s := dumpStart si s) hstack] at hreach
  obtain ⟨k, hrun⟩ := hreach
  exact ⟨_, k, _, exec_dumpInstr hidle, hrun, rfl, rfl, rfl, rfl, rfl, rfl, rfl, rfl, rfl, rfl⟩

end Sys2Proof.Machine
end

section
/-! One step of the machine, case by case: what the schedule makes of it, and which part of the block it runs (log 2). -/

namespace Sys2Proof.Machine

/-! ### Acceptance, command by command -/

/-- What an idle block does with an accepted command (10_state R21). -/
def accepted : Instr → State → State
  | .ptedec raw => respond (ptedecResponse raw)
  | .vasplit va => respond (vasplitResponse va)
  | .rootdec ctrl => respond (rootdecResponse ctrl)
  | .xlate root va => latchXlate root va
  | .cpush vs ve ps d => pushPending (pushTuple vs ve ps d)
  | .cflush => flushPending
  | .dumpL0 si base voff => acceptDump si base .l0 voff
  | .dumpL1 si base voff => acceptDump si base .l1 voff
  | .dumpL2 si base voff => acceptDump si base .l2 voff

theorem exec_eq_accept (i : Instr) (s : State) : exec i s = accept s (accepted i) := by cases i <;> rfl

theorem exec_idle {s : State} (hidle : s.phase = .idle) (i : Instr) : exec i s = .next (accepted i s) :=
  (exec_eq_accept i s).trans (accept_idle hidle _)

theorem exec_busy {s : State} (hbusy : s.phase ≠ .idle) (i : Instr) : exec i s = .next s :=
  (exec_eq_accept i s).trans (accept_busy hbusy _)

/-! ### The schedule -/

theorem busy_of_idle {s : State} (h : s.phase = .idle) : s.busy = false := by rw [State.busy, h]; rfl

theorem busy_iff (s : State) : s.busy = true ↔ s.phase ≠ .idle := bne_iff_ne

/-- What an entry of the schedule does by itself to the state with the entry taken off, where it is one that acts whatever the block is
doing. -/
def actsAtOnce (s : State) : Input → Option State
  | .reset => some (resetBlock s)
  | .targetStore cells => some (targetChange (Memory.writeCells s.mem cells) s.accessible s)
  | .targetAccess ranges => some (targetChange s.mem ranges s)
  | .ctrlWrite v => some { s with ctrl := v }
  | _ => none

/-- What the caller presents, which a busy block holds (70 R205). -/
def isPresented : Input → Bool
  | .awaitIdle | .command _ | .pseudo _ | .dumpcurBranch _ => true
  | _ => false

section
variable {s : State} {rest : List Input}

theorem step_of_nil (hin : s.inputs = []) : step s = progress s := by
  rw [step, fetch, hin]

theorem step_of_quiet (hin : s.inputs = .quiet :: rest) : step s = progress (setInputs rest s) := by
  rw [step, fetch, hin]

theorem step_of_actsAtOnce {e : Input} {t : State} (hin : s.inputs = e :: rest)
    (hacts : actsAtOnce (setInputs rest s) e = some t) : step s = .next t := by
  rw [step, fetch, hin]
  cases e <;> cases hacts <;> rfl

theorem step_of_presented_busy {e : Input} (hbusy : s.phase ≠ .idle) (hin : s.inputs = e :: rest)
    (he : isPresented e = true) : step s = progress s := by
  rw [← busy_iff] at hbusy
  cases e with
  | awaitIdle | command | pseudo | dumpcurBranch => simp only [step, fetch, hin, hbusy, if_true]
  | quiet | reset | targetStore | targetAccess | ctrlWrite => cases he

theorem step_of_awaitIdle (hidle : s.phase = .idle) (hin : s.inputs = .awaitIdle :: rest) :
    step s = .next (setInputs rest s) := by
  simp [step, fetch, hin, busy_of_idle hidle]

theorem step_of_pseudo {p : Pseudo} (hidle : s.phase = .idle) (hin : s.inputs = .pseudo p :: rest) :
    step s = .next (setInputs (expandPseudo s.ctrl p ++ rest) s) := by
  simp [step, fetch, hin, busy_of_idle hidle]

theorem step_of_dumpcurBranch {si : Bool} (hidle : s.phase = .idle) (hin : s.inputs = .dumpcurBranch si :: rest) :
    step s = .next (setInputs (dumpcurFollow si s.responses.getLast? ++ rest) s) := by
  simp [step, fetch, hin, busy_of_idle hidle]

theorem step_of_command {r : Request} {i : Instr} (hidle : s.phase = .idle) (hin : s.inputs = .command r :: rest)
    (hdecode : decode r = .ok i) : step s = exec i (setInputs rest s) := by
  simp [step, fetch_command_of_idle hidle hin, fetchCommand, hdecode]

end

/-! ### All that a step can do -/

/-- All that a command in progress can do in a step. -/
inductive Running (s : State) : State → Prop where
  | walks (hphase : s.phase = .xwalk) : Running s (walkStep s)
  | loads (ld : Loading) (hphase : s.phase = .drun) (hload : s.drLoad = some ld) : Running s (loadStep ld s)
  | scans (f : Frame) (below : List Frame) (hphase : s.phase = .drun) (hload : s.drLoad = none)
      (hstack : s.drStack = f :: below) : Running s (frameStep f below s)

/-- All that a step which answers a next state can do. -/
inductive Stepped (s : State) : State → Prop where
  /-- The idle block stays idle: nothing runs, and only what is presented next changes. -/
  | waits (ins : List Input) (hidle : s.phase = .idle) : Stepped s (setInputs ins s)
  /-- Reset, a change of the target or a write of its control register. -/
  | acts {t : State} (e : Input) (rest : List Input) (hin : s.inputs = e :: rest)
      (hacts : actsAtOnce (setInputs rest s) e = some t) : Stepped s t
  /-- The idle block accepts the command presented. -/
  | accepts (r : Request) (rest : List Input) (i : Instr) (hidle : s.phase = .idle)
      (hin : s.inputs = .command r :: rest) (hdecode : decode r = .ok i) : Stepped s (accepted i (setInputs rest s))
  /-- The command in progress goes on. -/
  | runs {t : State} (ins : List Input) (hrun : Running (setInputs ins s) t) : Stepped s t

theorem Running.busy {s t : State} (h : Running s t) : s.phase ≠ .idle := by
  cases h with
  | walks hphase | loads _ hphase | scans _ _ hphase =>
    rw [hphase]
    exact nofun

theorem running_of_progress {s t : State} (hbusy : s.phase ≠ .idle) (h : progress s = .next t) : Running s t := by
  unfold progress at h
  split at h
  case h_1 hidle => exact absurd hidle hbusy
  case h_2 hphase =>
    cases h
    exact .walks hphase
  case h_3 hphase =>
    obtain ⟨ld, hload, hs⟩ | ⟨f, below, hload, hstack, hs⟩ | ⟨-, -, hs⟩ := scanStep_cases s <;> rw [hs] at h <;> cases h
    · exact .loads ld hphase hload
    · exact .scans f below hphase hload hstack

theorem progress_of_idle {s : State} (hidle : s.phase = .idle) : progress s = .next s := by
  rw [progress, hidle]

theorem stepped_of_progress {s t : State} (ins : List Input) (h : progress (setInputs ins s) = .next t) :
    Stepped s t := by
  by_cases hidle : s.phase = .idle
  · rw [progress_of_idle (s := setInputs ins s) hidle] at h
    cases h
    exact .waits ins hidle
  · exact .runs ins (running_of_progress hidle h)

/-- A step is one of the block by itself, or does what the entry of the schedule says, or refuses a word that spells no command. -/
theorem step_cases (s : State) :
    (∃ ins, step s = progress (setInputs ins s)) ∨ (∃ t, Stepped s t ∧ step s = .next t) ∨
      ∃ word why, step s = .refused (.noCommand word why) := by
  cases hin : s.inputs with
  | nil => exact .inl ⟨s.inputs, step_of_nil hin⟩
  | cons e rest =>
    by_cases hheld : s.phase ≠ .idle ∧ isPresented e = true
    case pos =>
      obtain ⟨hbusy, he⟩ := hheld
      exact .inl ⟨s.inputs, step_of_presented_busy hbusy hin he⟩
    case neg =>
      have hidle (he : isPresented e = true) : s.phase = .idle := by simpa [he] using hheld
      cases e with
      | quiet => exact .inl ⟨rest, step_of_quiet hin⟩
      | reset | targetStore | targetAccess | ctrlWrite =>
        exact .inr (.inl ⟨_, .acts _ rest hin rfl, step_of_actsAtOnce hin rfl⟩)
      | awaitIdle => exact .inr (.inl ⟨_, .waits _ (hidle rfl), step_of_awaitIdle (hidle rfl) hin⟩)
      | pseudo p => exact .inr (.inl ⟨_, .waits _ (hidle rfl), step_of_pseudo (hidle rfl) hin⟩)
      | dumpcurBranch si => exact .inr (.inl ⟨_, .waits _ (hidle rfl), step_of_dumpcurBranch (hidle rfl) hin⟩)
      | command r =>
        cases hdecode : decode r with
        | error why => exact .inr (.inr ⟨_, why, step_refused_of_decode_error (hidle rfl) hin hdecode⟩)
        | ok i =>
          refine .inr (.inl ⟨_, .accepts r rest i (hidle rfl) hin hdecode, ?_⟩)
          rw [step_of_command (hidle rfl) hin hdecode]
          exact exec_idle (s := setInputs rest s) (hidle rfl) i

theorem stepped_of_step {s t : State} (h : step s = .next t) : Stepped s t := by
  obtain ⟨ins, hs⟩ | ⟨u, hu, hs⟩ | ⟨word, why, hs⟩ := step_cases s <;> rw [hs] at h
  · exact stepped_of_progress ins h
  · cases h
    exact hu
  · cases h

end Sys2Proof.Machine
end

section
/-! What a step of a command in progress does, and what it keeps: the read, the walk step, the table read and the scan step. -/

namespace Sys2Proof.Machine

/-! ### A read keeps everything but the requests made and the free values used -/

section
variable (pa : Nat) (s : State)

@[simp] theorem readEntry_phase : (readEntry pa s).2.phase = s.phase := by rw [readEntry_state]
@[simp] theorem readEntry_xlLevel : (readEntry pa s).2.xlLevel = s.xlLevel := by rw [readEntry_state]
@[simp] theorem readEntry_drStack : (readEntry pa s).2.drStack = s.drStack := by rw [readEntry_state]
@[simp] theorem readEntry_drLoad : (readEntry pa s).2.drLoad = s.drLoad := by rw [readEntry_state]
@[simp] theorem readEntry_inputs : (readEntry pa s).2.inputs = s.inputs := by rw [readEntry_state]
@[simp] theorem readEntry_coPending : (readEntry pa s).2.coPending = s.coPending := by rw [readEntry_state]
@[simp] theorem readEntry_events : (readEntry pa s).2.events = s.events := by rw [readEntry_state]
@[simp] theorem readEntry_responses : (readEntry pa s).2.responses = s.responses := by rw [readEntry_state]

theorem sameTarget_readEntry : sameTarget s (readEntry pa s).2 := by
  rw [readEntry_state]
  exact ⟨rfl, rfl, rfl, rfl⟩

/-- A read makes one request, below 2^64, or none (20_memory R43). -/
theorem readEntry_reads_cases :
    (readEntry pa s).2.reads = s.reads ∨ pa < 2 ^ 64 ∧ (readEntry pa s).2.reads = s.reads ++ [pa] := by
  obtain ⟨-, h⟩ | ⟨hpa, -, h⟩ | ⟨hpa, -, h⟩ := readEntry_cases pa s <;> rw [h]
  · exact .inl rfl
  · exact .inr ⟨hpa, rfl⟩
  · exact .inr ⟨hpa, rfl⟩

end

/-! ### The step of the top frame -/

/-- All that a step of the top frame can do (43_dump R152, R155 to R159). -/
inductive FrameStepped (f : Frame) (below : List Frame) (s : State) : State → Prop where
  | skips {raw : Word} (hraw : f.tbl[f.idx]? = some raw) :
      FrameStepped f below s (scannedPast f below f.coal [] s)
  | pushes {raw : Word} (hraw : f.tbl[f.idx]? = some raw) :
      FrameStepped f below s
        (scannedPast f below (coalPush f.coal (leafTuple f.voff f.level f.idx raw)).1
          (regionEvents f.level (coalPush f.coal (leafTuple f.voff f.level f.idx raw)).2) s)
  | reports {raw : Word} {ev : Event} (hraw : f.tbl[f.idx]? = some raw)
      (hev : ev = .invalid f.level f.idx (entryStart f.voff f.level f.idx) raw ∨
        f.level.next? = none ∧ ev = .malformed f.level f.idx (entryStart f.voff f.level f.idx) raw) :
      FrameStepped f below s (scannedPast f below none (regionEvents f.level f.coal ++ [ev]) s)
  | enters {raw : Word} {l : Level} (hraw : f.tbl[f.idx]? = some raw) (hl : f.level.next? = some l) :
      FrameStepped f below s
        (enterTable (childBase raw) l (entryStart f.voff f.level f.idx)
          (scannedPast f below none
            (regionEvents f.level f.coal ++
              [.dir f.level f.idx (entryStart f.voff f.level f.idx) (physOfPpn (ptePpn raw))]) s))
  | ends (hend : f.tbl[f.idx]? = none) : FrameStepped f below s (endTable f below s)

theorem frameStepped (f : Frame) (below : List Frame) (s : State) : FrameStepped f below s (frameStep f below s) := by
  cases hraw : f.tbl[f.idx]? with
  | none =>
    rw [frameStep, hraw]
    exact .ends hraw
  | some raw =>
    by_cases hp : processed s.drShow raw = true
    case neg =>
      rw [frameStep_skips hraw hp]
      exact .skips hraw
    case pos =>
      rw [frameStep_scans hraw hp]
      cases hk : pteKind raw with
      | invalid =>
        rw [scanEntry_invalid hk]
        exact .reports hraw (.inl rfl)
      | leaf =>
        rw [scanEntry_leaf hk]
        exact .pushes hraw
      | directory =>
        cases hl : f.level.next? with
        | none =>
          rw [scanEntry_malformed hk hl]
          exact .reports hraw (.inr ⟨hl, rfl⟩)
        | some l =>
          rw [scanEntry_directory hk hl]
          exact .enters hraw hl

/-- The last frame has ended: what is left is the DUMP's response (R158). -/
theorem endTable_nil (f : Frame) (s : State) :
    endTable f [] s =
      endCommand { status := .ok } { s with drStack := [], events := s.events ++ regionEvents f.level f.coal } := by
  simp only [endTable, emitRegion_eq, coalFlush_snd]

/-- The scan goes on with the frame below (R158). -/
theorem endTable_of_ne_nil {below : List Frame} (h : below ≠ []) (f : Frame) (s : State) :
    endTable f below s = { s with drStack := below, events := s.events ++ regionEvents f.level f.coal } := by
  cases below with
  | nil => exact absurd rfl h
  | cons g rest => simp only [endTable, emitRegion_eq, coalFlush_snd]

/-! ### What a command in progress keeps -/

/-- The step from `s` to `t` of a command in progress keeps what is not the sequencers', takes no event back, and responds exactly when
it ends the command (10_state R21, R27, R31). -/
structure RunsOn (s t : State) : Prop where
  target : sameTarget s t
  inputs : t.inputs = s.inputs
  pending : t.coPending = s.coPending
  events : s.events <+: t.events
  ends : (t.phase = s.phase ∧ t.responses = s.responses) ∨
    (t.phase = .idle ∧ ∃ r, t.responses = s.responses ++ [r])

theorem RunsOn.after_readEntry {s t : State} (pa : Nat) (h : RunsOn (readEntry pa s).2 t) : RunsOn s t := by
  obtain ⟨⟨hmem, hacc, horder, hctrl⟩, hin, hpending, hevents, hends⟩ := h
  obtain ⟨hmem', hacc', horder', hctrl'⟩ := sameTarget_readEntry pa s
  simp only [readEntry_inputs, readEntry_coPending, readEntry_events, readEntry_phase, readEntry_responses]
    at hin hpending hevents hends
  exact ⟨⟨hmem.trans hmem', hacc.trans hacc', horder.trans horder', hctrl.trans hctrl'⟩, hin, hpending, hevents, hends⟩

theorem runsOn_endCommand (r : Response) (s : State) : RunsOn s (endCommand r s) :=
  ⟨⟨rfl, rfl, rfl, rfl⟩, rfl, rfl, List.prefix_rfl, .inr ⟨rfl, r, rfl⟩⟩

theorem runsOn_walkStep (s : State) : RunsOn s (walkStep s) := by
  refine .after_readEntry (walkAddr s) ?_
  obtain ⟨-, h⟩ | ⟨raw, -, h⟩ := walkStep_cases s <;> rw [h]
  · exact runsOn_endCommand ..
  · obtain ⟨l, -, -, h⟩ | ⟨r, h, -⟩ := walkEntry_cases raw (readEntry (walkAddr s) s).2 <;> rw [h]
    · exact ⟨⟨rfl, rfl, rfl, rfl⟩, rfl, rfl, List.prefix_rfl, .inl ⟨rfl, rfl⟩⟩
    · exact runsOn_endCommand ..

theorem runsOn_loadStep (ld : Loading) (s : State) : RunsOn s (loadStep ld s) := by
  refine .after_readEntry (loadAddr ld) ?_
  obtain ⟨-, h⟩ | ⟨raw, -, h⟩ := loadStep_cases ld s <;> rw [h]
  · exact runsOn_endCommand ..
  · obtain ⟨-, h⟩ | ⟨-, h⟩ := storeEntry_cases ld raw (readEntry (loadAddr ld) s).2 <;> rw [h] <;>
      exact ⟨⟨rfl, rfl, rfl, rfl⟩, rfl, rfl, List.prefix_rfl, .inl ⟨rfl, rfl⟩⟩

theorem FrameStepped.runsOn {f : Frame} {below : List Frame} {s t : State} (h : FrameStepped f below s t) :
    RunsOn s t := by
  cases h with
  | skips | pushes | reports | enters =>
    exact ⟨⟨rfl, rfl, rfl, rfl⟩, rfl, rfl, List.prefix_append .., .inl ⟨rfl, rfl⟩⟩
  | ends =>
    cases below with
    | nil =>
      rw [endTable_nil]
      exact ⟨⟨rfl, rfl, rfl, rfl⟩, rfl, rfl, List.prefix_append .., .inr ⟨rfl, _, rfl⟩⟩
    | cons g rest =>
      rw [endTable_of_ne_nil (List.cons_ne_nil g rest)]
      exact ⟨⟨rfl, rfl, rfl, rfl⟩, rfl, rfl, List.prefix_append .., .inl ⟨rfl, rfl⟩⟩

theorem Running.runsOn {s t : State} (h : Running s t) : RunsOn s t := by
  cases h with
  | walks => exact runsOn_walkStep s
  | loads ld => exact runsOn_loadStep ld s
  | scans f below => exact (frameStepped f below s).runsOn

/-! ### The requests of a step -/

theorem walkStep_reads (s : State) : (walkStep s).reads = (readEntry (walkAddr s) s).2.reads := by
  obtain ⟨-, h⟩ | ⟨raw, -, h⟩ := walkStep_cases s <;> rw [h]
  · rfl
  · obtain ⟨l, -, -, h⟩ | ⟨r, h, -⟩ := walkEntry_cases raw (readEntry (walkAddr s) s).2 <;> rw [h]
    rfl

theorem loadStep_reads (ld : Loading) (s : State) :
    (loadStep ld s).reads = (readEntry (loadAddr ld) s).2.reads := by
  obtain ⟨-, h⟩ | ⟨raw, -, h⟩ := loadStep_cases ld s <;> rw [h]
  · rfl
  · obtain ⟨-, h⟩ | ⟨-, h⟩ := storeEntry_cases ld raw (readEntry (loadAddr ld) s).2 <;> rw [h]

/-- The entries of a table have been read before its frame is scanned (R153). -/
theorem FrameStepped.reads_eq {f : Frame} {below : List Frame} {s t : State} (h : FrameStepped f below s t) :
    t.reads = s.reads := by
  cases h with
  | skips | pushes | reports | enters => rfl
  | ends => cases below <;> simp [endTable, emitRegion_eq]

/-- A step makes at most one request (log 1). -/
theorem Running.reads_cases {s t : State} (h : Running s t) :
    t.reads = s.reads ∨ ∃ pa, t.reads = s.reads ++ [pa] := by
  have hread (pa : Nat) : (readEntry pa s).2.reads = s.reads ∨ ∃ a, (readEntry pa s).2.reads = s.reads ++ [a] :=
    (readEntry_reads_cases pa s).imp_right fun ⟨_, heq⟩ => ⟨pa, heq⟩
  cases h with
  | walks => exact walkStep_reads s ▸ hread _
  | loads ld => exact loadStep_reads ld s ▸ hread _
  | scans f below => exact .inl (frameStepped f below s).reads_eq

end Sys2Proof.Machine
end

section
/-! The shapes and widths of the scan stack, operation by operation (10_state R26; 43_dump R153 to R159). -/

namespace Sys2Proof.Machine

/-! ### Levels and virtual addresses -/

theorem entryStart_eq (voff : Nat) (l : Level) (i : Nat) : entryStart voff l i = voff + i * span l := rfl

/-- The entries of a table begin within the table's range. -/
theorem entryStart_le {voff i : Nat} (l : Level) (hi : i ≤ Config.entries)
    (htop : voff + Config.entries * span l ≤ scanTop) : entryStart voff l i ≤ scanTop := by
  have hspan := Nat.mul_le_mul_right (span l) hi
  rw [entryStart_eq]
  omega

theorem idx_lt_of_entry {f : Frame} {raw : Word} (hf : frameOk f) (hraw : f.tbl[f.idx]? = some raw) :
    f.idx < Config.entries := by
  obtain ⟨hlen, -⟩ := hf
  obtain ⟨hlt, -⟩ := List.getElem?_eq_some_iff.1 hraw
  rwa [hlen] at hlt

/-! ### Pending regions -/

/-- A pending region of a scan is not empty, ends at or before `top` and starts at a page of the target (10_state R26). -/
def pendingWithin (top : Nat) (c : Option Region) : Prop :=
  ∀ q, c = some q → q.vs < q.ve ∧ q.ve ≤ top ∧ q.ps < 2 ^ 56

theorem pendingWithin_none (top : Nat) : pendingWithin top none := nofun

theorem pendingWithin.mono {top top' : Nat} {c : Option Region} (h : pendingWithin top c) (htop : top ≤ top') :
    pendingWithin top' c := fun q hq => by
  obtain ⟨hne, hve, hps⟩ := h q hq
  exact ⟨hne, hve.trans htop, hps⟩

theorem pendingWithin_leafTuple (voff : Nat) (l : Level) (i : Nat) (raw : Word) :
    pendingWithin (entryStart voff l (i + 1)) (some (leafTuple voff l i raw)) := by
  rintro q ⟨⟩
  have hspan := span_pos l
  rw [entryStart_succ]
  exact ⟨by simp only [leafTuple]; omega, Nat.le_refl _, physOfPpn_lt _⟩

/-- Pushing the leaf of an entry leaves pending, and emits, only regions that end by the next entry (R155). -/
theorem pendingWithin.coalPush_leafTuple {voff i : Nat} {l : Level} {c : Option Region} (raw : Word)
    (hc : pendingWithin (entryStart voff l i) c) :
    pendingWithin (entryStart voff l (i + 1)) (coalPush c (leafTuple voff l i raw)).1 ∧
      pendingWithin (entryStart voff l i) (coalPush c (leafTuple voff l i raw)).2 := by
  have hleaf := pendingWithin_leafTuple voff l i raw
  obtain ⟨-, h⟩ | ⟨q, hq, ⟨hve, -⟩, h⟩ | ⟨q, hq, -, h⟩ := coalPush_cases c (leafTuple voff l i raw) <;> rw [h]
  · exact ⟨hleaf, pendingWithin_none _⟩
  · refine ⟨?_, pendingWithin_none _⟩
    rintro q' ⟨⟩
    obtain ⟨hne, -, hps⟩ := hc q hq
    obtain ⟨hne', hve', -⟩ := hleaf _ rfl
    exact ⟨(hne.trans_eq hve).trans hne', hve', hps⟩
  · exact ⟨hleaf, hq ▸ hc⟩

/-! ### Frames -/

theorem frameOk.pendingWithin {f : Frame} (hf : frameOk f) :
    pendingWithin (entryStart f.voff f.level f.idx) f.coal := by
  obtain ⟨-, -, -, hcoal⟩ := hf
  exact hcoal

theorem frameOk.advance {f : Frame} {raw : Word} {c : Option Region} (hf : frameOk f)
    (hraw : f.tbl[f.idx]? = some raw) (hc : Machine.pendingWithin (entryStart f.voff f.level (f.idx + 1)) c) :
    frameOk (advance f c) := by
  have hlt := idx_lt_of_entry hf hraw
  obtain ⟨hlen, -, htop, -⟩ := hf
  exact ⟨hlen, hlt, htop, hc⟩

/-- The table of an entry lies within the table's own range (R156). -/
theorem frameOk.child_top {f : Frame} {raw : Word} {l : Level} (hf : frameOk f) (hraw : f.tbl[f.idx]? = some raw)
    (hl : f.level.next? = some l) :
    entryStart f.voff f.level f.idx + Config.entries * span l ≤ scanTop := by
  have hlt := idx_lt_of_entry hf hraw
  obtain ⟨-, -, htop, -⟩ := hf
  rw [entries_mul_span_next hl, ← entryStart_succ]
  exact entryStart_le f.level hlt htop

/-! ### Stacks -/

theorem stackOk.top {f : Frame} {below : List Frame} (h : stackOk (f :: below)) : frameOk f := by
  cases below with
  | nil => exact h
  | cons g rest =>
    obtain ⟨hf, -⟩ := h
    exact hf

theorem stackOk.tail {f : Frame} {below : List Frame} (h : stackOk (f :: below)) : stackOk below := by
  cases below with
  | nil => trivial
  | cons g rest =>
    obtain ⟨-, -, -, hbelow⟩ := h
    exact hbelow

/-- What stands on a stack is one level below its top frame, which holds no pending region (R156). -/
def fitsOn (l : Level) (below : List Frame) : Prop :=
  ∀ g rest, below = g :: rest → g.level.next? = some l ∧ g.coal = none

theorem stackOk.fitsOn {f : Frame} {below : List Frame} (h : stackOk (f :: below)) : fitsOn f.level below := by
  rintro g rest rfl
  obtain ⟨-, hl, hc, -⟩ := h
  exact ⟨hl, hc⟩

theorem stackOk.cons {f : Frame} {below : List Frame} (hf : frameOk f) (hfits : Machine.fitsOn f.level below)
    (h : stackOk below) : stackOk (f :: below) := by
  cases below with
  | nil => exact hf
  | cons g rest =>
    obtain ⟨hl, hc⟩ := hfits g rest rfl
    exact ⟨hf, hl, hc, h⟩

theorem stackOk.advance {f : Frame} {below : List Frame} {raw : Word} {c : Option Region} (h : stackOk (f :: below))
    (hraw : f.tbl[f.idx]? = some raw) (hc : pendingWithin (entryStart f.voff f.level (f.idx + 1)) c) :
    stackOk (advance f c :: below) :=
  .cons (h.top.advance hraw hc) h.fitsOn h.tail

/-! ### Tables being read -/

/-- The table read whole, its frame is pushed (R153). -/
theorem loadingOk.frame {ld : Loading} {below : List Frame} {raw : Word} (h : loadingOk ld below)
    (hbelow : stackOk below) (hlast : Config.entries ≤ ld.got.length + 1) :
    stackOk (({ ld with got := ld.got ++ [raw] } : Loading).frame :: below) := by
  obtain ⟨hlt, htop, hfits⟩ := h
  refine .cons ⟨?_, Nat.zero_le _, htop, pendingWithin_none _⟩ hfits hbelow
  show (ld.got ++ [raw]).length = Config.entries
  rw [List.length_append, List.length_singleton]
  omega

theorem loadingOk.append {ld : Loading} {below : List Frame} {raw : Word} (h : loadingOk ld below)
    (hmore : ld.got.length + 1 < Config.entries) : loadingOk { ld with got := ld.got ++ [raw] } below := by
  obtain ⟨-, htop, hfits⟩ := h
  exact ⟨by rwa [List.length_append], htop, hfits⟩

theorem loadingOk_child {f : Frame} {below : List Frame} {raw : Word} {l : Level} (hf : frameOk f)
    (hraw : f.tbl[f.idx]? = some raw) (hl : f.level.next? = some l) :
    loadingOk { base := childBase raw, level := l, voff := entryStart f.voff f.level f.idx, got := [] }
      (advance f none :: below) := by
  refine ⟨by rw [List.length_nil]; decide, hf.child_top hraw hl, ?_⟩
  rintro g rest ⟨⟩
  exact ⟨hl, rfl⟩

end Sys2Proof.Machine
end

section
/-! Every step keeps the invariant, and from it no step faults (10_state R23, R25, R26). -/

namespace Sys2Proof.Machine

/-! ### The sequencer's shape, phase by phase -/

section
variable {s : State}

theorem sequencerOk_of_idle (h : s.phase = .idle) :
    sequencerOk s ↔ s.drStack = [] ∧ s.drLoad = none ∧ s.disturbed = false := by
  rw [sequencerOk, h]

theorem sequencerOk_of_xwalk (h : s.phase = .xwalk) : sequencerOk s ↔ s.drStack = [] ∧ s.drLoad = none := by
  rw [sequencerOk, h]

theorem sequencerOk_of_drun (h : s.phase = .drun) :
    sequencerOk s ↔ stackOk s.drStack ∧ (s.drLoad = none → s.drStack ≠ []) ∧
      ∀ ld, s.drLoad = some ld → loadingOk ld s.drStack := by
  rw [sequencerOk, h]

theorem sequencerOk_endCommand (r : Response) (s : State) : sequencerOk (endCommand r s) := ⟨rfl, rfl, rfl⟩

/-- An XLATE that walks. -/
theorem sequencerOk_of_walking (hphase : s.phase = .xwalk) (hstack : s.drStack = []) (hload : s.drLoad = none) :
    sequencerOk s :=
  (sequencerOk_of_xwalk hphase).2 ⟨hstack, hload⟩

/-- A DUMP that scans a frame. -/
theorem sequencerOk_of_scanning (hphase : s.phase = .drun) (hload : s.drLoad = none) (hne : s.drStack ≠ [])
    (hstack : stackOk s.drStack) : sequencerOk s := by
  rw [sequencerOk_of_drun hphase, hload]
  exact ⟨hstack, fun _ => hne, nofun⟩

/-- A DUMP that reads a table. -/
theorem sequencerOk_of_loading {ld : Loading} (hphase : s.phase = .drun) (hload : s.drLoad = some ld)
    (hstack : stackOk s.drStack) (hld : loadingOk ld s.drStack) : sequencerOk s := by
  rw [sequencerOk_of_drun hphase, hload]
  refine ⟨hstack, nofun, ?_⟩
  rintro ld' ⟨⟩
  exact hld

/-! ### The steps of a command in progress -/

theorem sequencerOk.walkStep (h : sequencerOk s) (hphase : s.phase = .xwalk) : sequencerOk (walkStep s) := by
  obtain ⟨-, heq⟩ | ⟨raw, -, heq⟩ := walkStep_cases s <;> rw [heq]
  · exact sequencerOk_endCommand ..
  · obtain ⟨l, -, -, heq⟩ | ⟨r, heq, -⟩ := walkEntry_cases raw (readEntry (walkAddr s) s).2 <;> rw [heq]
    · obtain ⟨hstack, hload⟩ := (sequencerOk_of_xwalk hphase).1 h
      exact sequencerOk_of_walking ((readEntry_phase ..).trans hphase) ((readEntry_drStack ..).trans hstack)
        ((readEntry_drLoad ..).trans hload)
    · exact sequencerOk_endCommand ..

theorem sequencerOk.loadStep {ld : Loading} (h : sequencerOk s) (hphase : s.phase = .drun)
    (hload : s.drLoad = some ld) : sequencerOk (loadStep ld s) := by
  obtain ⟨hstack, -, hloading⟩ := (sequencerOk_of_drun hphase).1 h
  have hld := hloading ld hload
  have hphase' : (readEntry (loadAddr ld) s).2.phase = .drun := (readEntry_phase ..).trans hphase
  have hstack' : (readEntry (loadAddr ld) s).2.drStack = s.drStack := readEntry_drStack ..
  obtain ⟨-, heq⟩ | ⟨raw, -, heq⟩ := loadStep_cases ld s <;> rw [heq]
  · exact sequencerOk_endCommand ..
  · obtain ⟨hmore, heq⟩ | ⟨hlast, heq⟩ := storeEntry_cases ld raw (readEntry (loadAddr ld) s).2 <;> rw [heq, hstack']
    · exact sequencerOk_of_loading hphase' rfl hstack (hld.append hmore)
    · exact sequencerOk_of_scanning hphase' rfl (List.cons_ne_nil _ _) (hld.frame hstack hlast)

theorem FrameStepped.sequencerOk {t : State} {f : Frame} {below : List Frame} (h : FrameStepped f below s t)
    (hphase : s.phase = .drun) (hload : s.drLoad = none) (hstack : stackOk (f :: below)) : sequencerOk t := by
  have hpending := hstack.top.pendingWithin
  have hnext : entryStart f.voff f.level f.idx ≤ entryStart f.voff f.level (f.idx + 1) := by
    rw [entryStart_succ]
    exact Nat.le_add_right ..
  cases h with
  | skips hraw =>
    exact sequencerOk_of_scanning hphase hload (List.cons_ne_nil _ _) (hstack.advance hraw (hpending.mono hnext))
  | pushes hraw =>
    obtain ⟨hleft, -⟩ := hpending.coalPush_leafTuple _
    exact sequencerOk_of_scanning hphase hload (List.cons_ne_nil _ _) (hstack.advance hraw hleft)
  | reports hraw hev =>
    exact sequencerOk_of_scanning hphase hload (List.cons_ne_nil _ _)
      (hstack.advance hraw (pendingWithin_none _))
  | enters hraw hl =>
    exact sequencerOk_of_loading hphase rfl (hstack.advance hraw (pendingWithin_none _))
      (loadingOk_child hstack.top hraw hl)
  | ends =>
    cases below with
    | nil =>
      rw [endTable_nil]
      exact sequencerOk_endCommand ..
    | cons g rest =>
      rw [endTable_of_ne_nil (List.cons_ne_nil g rest)]
      exact sequencerOk_of_scanning hphase hload (List.cons_ne_nil _ _) hstack.tail

theorem Running.sequencerOk {t : State} (hrun : Running s t) (h : sequencerOk s) : sequencerOk t := by
  cases hrun with
  | walks hphase => exact h.walkStep hphase
  | loads ld hphase hload => exact h.loadStep hphase hload
  | scans f below hphase hload hstack =>
    obtain ⟨hok, -⟩ := (sequencerOk_of_drun hphase).1 h
    exact (frameStepped f below s).sequencerOk hphase hload (hstack ▸ hok)

/-! ### The steps of an idle block -/

theorem loadingOk_dump (base : Word) (l : Level) (voff : Word) :
    loadingOk { base := base, level := l, voff := voff.toNat, got := [] } [] := by
  have hvoff : voff.toNat < 2 ^ 64 := voff.isLt
  have hspan := entries_mul_span_le l
  refine ⟨by rw [List.length_nil]; decide, ?_, nofun⟩
  unfold scanTop
  exact Nat.add_le_add hvoff.le hspan

theorem sequencerOk_acceptDump (h : s.drStack = []) (si : Bool) (base : Word) (l : Level) (voff : Word) :
    sequencerOk (acceptDump si base l voff s) := by
  refine sequencerOk_of_loading rfl rfl ?_ ?_ <;> rw [acceptDump_drStack, h]
  · trivial
  · exact loadingOk_dump base l voff

/-- CPUSH's operands are 64 bits wide, and what it merges keeps the bounds of what was pending (10_state R25). -/
theorem pendingOk.pushPending (h : pendingOk s) (vs ve ps d : Word) :
    pendingOk (pushPending (pushTuple vs ve ps d) s) := by
  have hvs : vs.toNat < 2 ^ 64 := vs.isLt
  have hve : ve.toNat < 2 ^ 64 := ve.isLt
  have hps : ps.toNat < 2 ^ 64 := ps.isLt
  intro q hq
  rw [pushPending_coPending] at hq
  obtain ⟨-, heq⟩ | ⟨p, hp, -, heq⟩ | ⟨p, hp, -, heq⟩ := coalPush_cases s.coPending (pushTuple vs ve ps d) <;>
    rw [heq] at hq <;> cases hq
  · exact ⟨hvs, hve, hps⟩
  · obtain ⟨hpvs, -, hpps⟩ := h p hp
    exact ⟨hpvs, hve, hpps⟩
  · exact ⟨hvs, hve, hps⟩

theorem Invariant.accepted (h : Invariant s) (hidle : s.phase = .idle) (i : Instr) : Invariant (accepted i s) := by
  obtain ⟨hmem, hseq, hpending⟩ := h
  obtain ⟨hstack, hload, hstill⟩ := (sequencerOk_of_idle hidle).1 hseq
  cases i with
  | ptedec | vasplit | rootdec => exact ⟨hmem, ⟨hstack, hload, hstill⟩, hpending⟩
  | xlate => exact ⟨hmem, ⟨hstack, hload⟩, hpending⟩
  | cpush vs ve ps d => exact ⟨hmem, ⟨hstack, hload, hstill⟩, hpending.pushPending vs ve ps d⟩
  | cflush => exact ⟨hmem, ⟨hstack, hload, hstill⟩, nofun⟩
  | dumpL0 si base voff | dumpL1 si base voff | dumpL2 si base voff =>
    exact ⟨hmem, sequencerOk_acceptDump hstack si base _ voff, hpending⟩

/-- A change of the target disturbs a command in progress, and nothing else of the block (log 12). -/
theorem sequencerOk.targetChange (h : sequencerOk s) (m : Memory) (acc : List Range) :
    sequencerOk (targetChange m acc s) := by
  cases hphase : s.phase with
  | idle =>
    obtain ⟨hstack, hload, hstill⟩ := (sequencerOk_of_idle hphase).1 h
    rw [sequencerOk_of_idle (s := Machine.targetChange m acc s) hphase, targetChange_disturbed, busy_of_idle hphase, hstill]
    exact ⟨hstack, hload, rfl⟩
  | xwalk => exact (sequencerOk_of_xwalk (s := Machine.targetChange m acc s) hphase).2 ((sequencerOk_of_xwalk hphase).1 h)
  | drun => exact (sequencerOk_of_drun (s := Machine.targetChange m acc s) hphase).2 ((sequencerOk_of_drun hphase).1 h)

theorem Invariant.actsAtOnce {t : State} {e : Input} (h : Invariant s) (hacts : actsAtOnce s e = some t) :
    Invariant t := by
  obtain ⟨hmem, hseq, hpending⟩ := h
  cases e <;> cases hacts
  case reset => exact ⟨hmem, ⟨rfl, rfl, rfl⟩, nofun⟩
  case targetStore cells => exact ⟨writeCells_wf cells hmem, hseq.targetChange .., hpending⟩
  case targetAccess ranges => exact ⟨hmem, hseq.targetChange .., hpending⟩
  case ctrlWrite => exact ⟨hmem, hseq, hpending⟩

/-! ### Any step -/

/-- A command in progress touches neither the target's memory nor `co_pending`. -/
theorem Invariant.of_runsOn {t : State} (h : Invariant s) (hruns : RunsOn s t) (hseq : sequencerOk t) :
    Invariant t := by
  obtain ⟨hmem, -, hpending⟩ := h
  obtain ⟨⟨hmem', -⟩, -, hpending', -⟩ := hruns
  refine ⟨hmem' ▸ hmem, hseq, ?_⟩
  rw [pendingOk, hpending']
  exact hpending

theorem Invariant.setInputs (h : Invariant s) (ins : List Input) : Invariant (setInputs ins s) := h

theorem Invariant.sequencerOk (h : Invariant s) : sequencerOk s := by
  obtain ⟨-, hseq, -⟩ := h
  exact hseq

end

/-- Settles O45, case by case of what a step can do. -/
theorem stepKeepsTheInvariant : Obligations.StepKeepsTheInvariant := by
  intro s t hinv hstep
  cases stepped_of_step hstep with
  | waits ins hidle => exact hinv.setInputs ins
  | acts e rest hin hacts => exact (hinv.setInputs rest).actsAtOnce hacts
  | accepts r rest i hidle => exact (hinv.setInputs rest).accepted hidle i
  | runs ins hrun =>
    have h := hinv.setInputs ins
    exact h.of_runsOn hrun.runsOn (hrun.sequencerOk h.sequencerOk)

end Sys2Proof.Machine
end

section
/-! What the invariant says of any state: no fault, a bounded scan stack; and that reset meets it (10_state R26, R33). -/

namespace Sys2Proof.Machine

/-- Settles O44: the registers of `State.reset` are empty, and nothing has left the block. -/
theorem resetMeetsTheInvariant : Obligations.ResetMeetsTheInvariant :=
  ⟨⟨reset_mem_wf, ⟨rfl, rfl, rfl⟩, nofun⟩, nofun, nofun, nofun⟩

/-! ### No fault -/

theorem progress_answers {s : State} (h : sequencerOk s) : ∃ t, progress s = .next t := by
  unfold progress
  cases hphase : s.phase with
  | idle => exact ⟨s, rfl⟩
  | xwalk => exact ⟨_, rfl⟩
  | drun =>
    obtain ⟨-, hne, -⟩ := (sequencerOk_of_drun hphase).1 h
    obtain ⟨ld, -, hscan⟩ | ⟨f, below, -, -, hscan⟩ | ⟨hload, hstack, -⟩ := scanStep_cases s
    · exact ⟨_, hscan⟩
    · exact ⟨_, hscan⟩
    · exact absurd hstack (hne hload)

/-- Settles O48: only a step of the block by itself could fault, and with the sequencer in shape it does not. -/
theorem invariantExcludesFaults : Obligations.InvariantExcludesFaults := by
  intro s r hinv h
  obtain ⟨ins, hs⟩ | ⟨t, -, hs⟩ | ⟨word, why, hs⟩ := step_cases s <;> rw [hs] at h
  · obtain ⟨t, ht⟩ := progress_answers (hinv.setInputs ins).sequencerOk
    exact nomatch ht.symm.trans h
  · cases h
  · cases h

/-! ### The scan stack -/

theorem Invariant.stackOk {s : State} (h : Invariant s) : stackOk s.drStack := by
  have hseq := h.sequencerOk
  cases hphase : s.phase with
  | idle =>
    obtain ⟨hstack, -⟩ := (sequencerOk_of_idle hphase).1 hseq
    rw [hstack]
    trivial
  | xwalk =>
    obtain ⟨hstack, -⟩ := (sequencerOk_of_xwalk hphase).1 hseq
    rw [hstack]
    trivial
  | drun =>
    obtain ⟨hstack, -⟩ := (sequencerOk_of_drun hphase).1 hseq
    exact hstack

theorem level_toNat_next {l l' : Level} (h : l.next? = some l') : l'.toNat = l.toNat + 1 := by
  cases l <;> cases h <;> rfl

theorem level_toNat_le (l : Level) : l.toNat ≤ 2 := by cases l <;> decide

theorem stackOk.mem {fs : List Frame} (h : stackOk fs) : ∀ f ∈ fs, frameOk f := by
  induction fs with
  | nil => exact nofun
  | cons f below ih => exact List.forall_mem_cons.2 ⟨h.top, ih h.tail⟩

/-- Each frame stands one level below the one under it. -/
theorem stackOk.length_le {f : Frame} {below : List Frame} (h : stackOk (f :: below)) :
    below.length ≤ f.level.toNat := by
  induction below generalizing f with
  | nil => exact Nat.zero_le _
  | cons g rest ih =>
    obtain ⟨hl, -⟩ := h.fitsOn g rest rfl
    rw [List.length_cons, level_toNat_next hl]
    exact Nat.succ_le_succ (ih h.tail)

theorem stackOk.length_le_three {fs : List Frame} (h : stackOk fs) : fs.length ≤ 3 := by
  cases fs with
  | nil => exact Nat.zero_le _
  | cons f below => exact Nat.succ_le_succ (h.length_le.trans (level_toNat_le _))

theorem scanTop_lt : scanTop < 2 ^ 65 := by decide

theorem frameOk.bounds {f : Frame} (h : frameOk f) :
    f.voff < 2 ^ 65 ∧ f.idx ≤ 512 ∧ f.tbl.length = 512 ∧ ∀ q, f.coal = some q → q.vs < 2 ^ 65 ∧ q.ve < 2 ^ 65 := by
  obtain ⟨hlen, hidx, htop, hcoal⟩ := h
  have hscan := scanTop_lt
  refine ⟨(Nat.le_of_add_right_le htop).trans_lt hscan, hidx, hlen, fun q hq => ?_⟩
  obtain ⟨hne, hve, -⟩ := hcoal q hq
  have hve' := (hve.trans (entryStart_le f.level hidx htop)).trans_lt hscan
  exact ⟨hne.trans hve', hve'⟩

/-- Settles O46: the levels of the frames bound their number, and each frame is within its own bounds. -/
theorem scanStackIsBounded : Obligations.ScanStackIsBounded := by
  intro s hinv
  exact ⟨hinv.stackOk.length_le_three, fun f hf => (hinv.stackOk.mem f hf).bounds⟩

end Sys2Proof.Machine
end

section
/-! Every step keeps responses, events and requests within their widths (30_encoding R76, R80; 20_memory R43). -/

namespace Sys2Proof.Machine

/-! ### What leaves the block, operation by operation -/

section
variable {s : State}

theorem outputsOk.respond {r : Response} (h : outputsOk s) (hr : responseOk r) : outputsOk (respond r s) := by
  obtain ⟨hresponses, hevents, hreads⟩ := h
  exact ⟨List.forall_mem_append.2 ⟨hresponses, List.forall_mem_singleton.2 hr⟩, hevents, hreads⟩

theorem outputsOk.endCommand {r : Response} (h : outputsOk s) (hr : responseOk r) : outputsOk (endCommand r s) :=
  outputsOk.respond (s := forgetSequencing s) h hr

theorem outputsOk.readEntry (h : outputsOk s) (pa : Nat) : outputsOk (readEntry pa s).2 := by
  obtain ⟨hresponses, hevents, hreads⟩ := h
  refine ⟨by rwa [readEntry_responses], by rwa [readEntry_events], ?_⟩
  obtain heq | ⟨hpa, heq⟩ := readEntry_reads_cases pa s <;> rw [heq]
  · exact hreads
  · exact List.forall_mem_append.2 ⟨hreads, List.forall_mem_singleton.2 hpa⟩

/-- What has left the block is what had left it before and the events `evs`. -/
theorem outputsOk.of_events {t : State} {evs : List Event} (h : outputsOk s) (hevs : ∀ ev ∈ evs, eventOk ev)
    (hresponses : t.responses = s.responses) (hevents : t.events = s.events ++ evs) (hreads : t.reads = s.reads) :
    outputsOk t := by
  unfold outputsOk
  rw [hresponses, hevents, hreads]
  obtain ⟨hr, he, hp⟩ := h
  exact ⟨hr, List.forall_mem_append.2 ⟨he, hevs⟩, hp⟩

end

/-! ### Responses -/

/-- No field of the response reaches 2^64, whatever its status. -/
theorem responseOk_of_lt {r : Response} (h0 : r.r0 < 2 ^ 64) (h1 : r.r1 < 2 ^ 64) (h2 : r.r2 < 2 ^ 64)
    (h3 : r.r3 < 2 ^ 64) : responseOk r :=
  ⟨h1, h2, h3, fun _ => Nat.lt_add_right _ h0, fun _ => h0⟩

theorem toNat_lt_word {n : Nat} (x : BitVec n) (hn : n ≤ 64) : x.toNat < 2 ^ 64 :=
  x.isLt.trans_le (Nat.pow_le_pow_right Nat.two_pos hn)

theorem responseOk_status (st : Status) : responseOk { status := st } := by
  apply responseOk_of_lt <;> exact Nat.two_pow_pos 64

/-- The failing address is that of an entry of a table (20_memory R45). -/
theorem responseOk_failed (base : Word) {i : Nat} (hi : i < 512) :
    responseOk { status := .hostMemoryError, r0 := entryAddr base i } := by
  have hbase : base.toNat < 2 ^ 64 := base.isLt
  have hpos : 0 < 2 ^ 64 := Nat.two_pow_pos 64
  have haddr : entryAddr base i < 2 ^ 64 + 2 ^ 12 := by
    rw [entryAddr]
    omega
  exact ⟨hpos, hpos, hpos, fun _ => haddr, fun h => absurd rfl h⟩

theorem responseOk_leaf (raw va : Word) :
    responseOk { status := .ok, r0 := leafPhys raw va, r1 := (pteFlags raw).toNat } := by
  have hphys := physOfPpn_lt (ptePpn raw)
  have hoff : (vaOffset va).toNat < 2 ^ 12 := (vaOffset va).isLt
  have hsum : leafPhys raw va < 2 ^ 64 := by
    rw [leafPhys]
    omega
  exact responseOk_of_lt hsum (toNat_lt_word _ (by decide)) (Nat.two_pow_pos 64) (Nat.two_pow_pos 64)

theorem responseOk_ptedec (raw : Word) : responseOk (ptedecResponse raw) := by
  have hkind : kindCode (pteKind raw) < 2 ^ 64 := by cases pteKind raw <;> decide
  exact responseOk_of_lt (toNat_lt_word (pteFlags raw) (by decide)) (toNat_lt_word (ptePpn raw) (by decide)) hkind
    (Nat.two_pow_pos 64)

theorem responseOk_vasplit (va : Word) : responseOk (vasplitResponse va) :=
  responseOk_of_lt (toNat_lt_word (vpn2 va) (by decide)) (toNat_lt_word (vpn1 va) (by decide))
    (toNat_lt_word (vpn0 va) (by decide)) (toNat_lt_word (vaOffset va) (by decide))

theorem responseOk_rootdec (ctrl : Word) : responseOk (rootdecResponse ctrl) :=
  responseOk_of_lt ((physOfPpn_lt (ctrlRootPpn ctrl)).trans (by decide)) (toNat_lt_word (ctrlAsid ctrl) (by decide))
    (toNat_lt_word (ctrlMode ctrl) (by decide)) (toNat_lt_word (ctrlRootPpn ctrl) (by decide))

/-- CPUSH and CFLUSH answer with what was pending (42_coalescer R132). -/
theorem responseOk_region {em : Option Region}
    (h : ∀ q, em = some q → q.vs < 2 ^ 64 ∧ q.ve < 2 ^ 64 ∧ q.ps < 2 ^ 64) : responseOk (regionResponse em) := by
  cases em with
  | none => exact responseOk_status .ok
  | some q =>
    obtain ⟨hvs, hve, hps⟩ := h q rfl
    exact responseOk_of_lt hvs hve hps (toNat_lt_word q.fl (by decide))

theorem coalPush_emits {c em : Option Region} {t : Region} (h : (coalPush c t).2 = em) : em = none ∨ em = c := by
  subst h
  obtain ⟨-, heq⟩ | ⟨q, -, -, heq⟩ | ⟨q, hq, -, heq⟩ := coalPush_cases c t <;> rw [heq]
  · exact .inl rfl
  · exact .inl rfl
  · exact .inr hq.symm

/-! ### Events -/

theorem eventOk_region {l : Level} {c : Option Region} {top : Nat} (hc : pendingWithin top c) (htop : top ≤ scanTop) :
    ∀ ev ∈ regionEvents l c, eventOk ev := by
  cases c with
  | none => exact nofun
  | some q =>
    obtain ⟨hne, hve, hps⟩ := hc q rfl
    exact List.forall_mem_singleton.2 ⟨hne, (hve.trans htop).trans_lt scanTop_lt, hps.trans (by decide)⟩

section
variable {f : Frame} {raw : Word}

theorem frameOk.eventOk_flush (hf : frameOk f) : ∀ ev ∈ regionEvents f.level f.coal, eventOk ev := by
  obtain ⟨-, hidx, htop, hcoal⟩ := hf
  exact eventOk_region hcoal (entryStart_le f.level hidx htop)

theorem frameOk.entryStart_lt (hf : frameOk f) : entryStart f.voff f.level f.idx < 2 ^ 65 := by
  obtain ⟨-, hidx, htop, -⟩ := hf
  exact (entryStart_le f.level hidx htop).trans_lt scanTop_lt

theorem eventOk_dir {l : Level} (hf : frameOk f) (hraw : f.tbl[f.idx]? = some raw) (hl : f.level.next? = some l) :
    eventOk (.dir f.level f.idx (entryStart f.voff f.level f.idx) (physOfPpn (ptePpn raw))) := by
  refine ⟨fun h => ?_, idx_lt_of_entry hf hraw, hf.entryStart_lt, physOfPpn_lt _, Nat.mul_mod_left ..⟩
  rw [h] at hl
  cases hl

theorem eventOk_report {ev : Event} (hf : frameOk f) (hraw : f.tbl[f.idx]? = some raw)
    (hev : ev = .invalid f.level f.idx (entryStart f.voff f.level f.idx) raw ∨
      f.level.next? = none ∧ ev = .malformed f.level f.idx (entryStart f.voff f.level f.idx) raw) : eventOk ev := by
  have hlt := idx_lt_of_entry hf hraw
  obtain rfl | ⟨hl, rfl⟩ := hev
  · exact ⟨hlt, hf.entryStart_lt⟩
  · refine ⟨?_, hlt, hf.entryStart_lt⟩
    cases hlevel : f.level <;> rw [hlevel] at hl <;> trivial

end

/-! ### The steps -/

section
variable {s : State}

theorem outputsOk.walkStep (h : outputsOk s) : outputsOk (walkStep s) := by
  have hread := h.readEntry (walkAddr s)
  obtain ⟨-, heq⟩ | ⟨raw, -, heq⟩ := walkStep_cases s <;> rw [heq]
  · exact hread.endCommand (responseOk_failed _ (vaIndex_lt ..))
  · obtain ⟨l, -, -, heq⟩ | ⟨r, heq, hr⟩ := walkEntry_cases raw (Machine.readEntry (walkAddr s) s).2 <;> rw [heq]
    · exact hread
    · refine hread.endCommand ?_
      obtain ⟨-, rfl⟩ | ⟨-, rfl⟩ | ⟨-, -, rfl⟩ := hr
      · exact responseOk_status _
      · exact responseOk_leaf ..
      · exact responseOk_status _

theorem outputsOk.loadStep {ld : Loading} (h : outputsOk s) (hld : ld.got.length < Config.entries) :
    outputsOk (loadStep ld s) := by
  have hread := h.readEntry (loadAddr ld)
  obtain ⟨-, heq⟩ | ⟨raw, -, heq⟩ := loadStep_cases ld s <;> rw [heq]
  · exact hread.endCommand (responseOk_failed _ hld)
  · obtain ⟨-, heq⟩ | ⟨-, heq⟩ := storeEntry_cases ld raw (Machine.readEntry (loadAddr ld) s).2 <;> rw [heq] <;>
      exact hread

theorem FrameStepped.outputsOk {f : Frame} {below : List Frame} {t : State} (hs : FrameStepped f below s t)
    (h : outputsOk s) (hf : frameOk f) : outputsOk t := by
  have hflush := hf.eventOk_flush
  cases hs with
  | skips => exact h.of_events (evs := []) nofun rfl rfl rfl
  | pushes hraw =>
    refine h.of_events (evs := regionEvents _ _) ?_ rfl rfl rfl
    obtain hem | hem := coalPush_emits rfl <;> rw [hem]
    · exact nofun
    · exact hflush
  | reports hraw hev =>
    have hreport := eventOk_report hf hraw hev
    exact h.of_events (List.forall_mem_append.2 ⟨hflush, List.forall_mem_singleton.2 hreport⟩) rfl rfl rfl
  | enters hraw hl =>
    have hdir := eventOk_dir hf hraw hl
    exact h.of_events (List.forall_mem_append.2 ⟨hflush, List.forall_mem_singleton.2 hdir⟩) rfl rfl rfl
  | ends =>
    cases below with
    | nil =>
      rw [endTable_nil]
      exact (h.of_events (t := { s with drStack := [], events := _ }) hflush rfl rfl rfl).endCommand (responseOk_status .ok)
    | cons g rest =>
      rw [endTable_of_ne_nil (List.cons_ne_nil g rest)]
      exact h.of_events hflush rfl rfl rfl

theorem Running.outputsOk {t : State} (hrun : Running s t) (h : Machine.outputsOk s) (hseq : Machine.sequencerOk s) :
    outputsOk t := by
  cases hrun with
  | walks => exact h.walkStep
  | loads ld hphase hload =>
    obtain ⟨-, -, hloading⟩ := (sequencerOk_of_drun hphase).1 hseq
    obtain ⟨hlt, -⟩ := hloading ld hload
    exact h.loadStep hlt
  | scans f below hphase hload hstack =>
    obtain ⟨hok, -⟩ := (sequencerOk_of_drun hphase).1 hseq
    rw [hstack] at hok
    exact (frameStepped f below s).outputsOk h hok.top

theorem outputsOk.accepted (h : outputsOk s) (hpending : pendingOk s) (i : Instr) : outputsOk (accepted i s) := by
  cases i with
  | ptedec raw => exact h.respond (responseOk_ptedec raw)
  | vasplit va => exact h.respond (responseOk_vasplit va)
  | rootdec ctrl => exact h.respond (responseOk_rootdec ctrl)
  | xlate | dumpL0 | dumpL1 | dumpL2 => exact h
  | cpush vs ve ps d =>
    refine outputsOk.respond (s := { s with coPending := _ }) h ?_
    obtain hem | hem := coalPush_emits rfl <;> rw [hem]
    · exact responseOk_status _
    · exact responseOk_region hpending
  | cflush => exact outputsOk.respond (s := { s with coPending := none }) h (responseOk_region hpending)

theorem outputsOk.actsAtOnce {t : State} {e : Input} (h : outputsOk s) (hacts : actsAtOnce s e = some t) :
    outputsOk t := by
  cases e <;> cases hacts <;> exact h

end

/-- Settles O47, case by case of what a step can do. -/
theorem stepKeepsOutputsInBounds : Obligations.StepKeepsOutputsInBounds := by
  intro s t hinv hout hstep
  cases stepped_of_step hstep with
  | waits => exact hout
  | acts e rest hin hacts => exact outputsOk.actsAtOnce (s := setInputs rest s) hout hacts
  | accepts r rest i =>
    obtain ⟨-, -, hpending⟩ := hinv
    exact outputsOk.accepted (s := setInputs rest s) hout hpending i
  | runs ins hrun => exact hrun.outputsOk hout (hinv.setInputs ins).sequencerOk

end Sys2Proof.Machine
end

section
/-! What any step keeps of the state, and what it appends to the outputs (10_state R21, R25, R27; 20_memory R44). -/

namespace Sys2Proof.Machine

/-! ### Acceptance -/

theorem sameTarget_accepted (i : Instr) (s : State) : sameTarget s (accepted i s) := by
  cases i <;> exact ⟨rfl, rfl, rfl, rfl⟩

theorem accepted_events (i : Instr) (s : State) : (accepted i s).events = s.events := by cases i <;> rfl

theorem accepted_reads (i : Instr) (s : State) : (accepted i s).reads = s.reads := by cases i <;> rfl

/-- XLATE and DUMP leave IDLE with no response; every other command answers at once (10_state R21). -/
theorem accepted_ends (i : Instr) (s : State) :
    (accepted i s).responses = s.responses ∨
      (accepted i s).phase = .idle ∧ ∃ r, (accepted i s).responses = s.responses ++ [r] := by
  cases i with
  | xlate | dumpL0 | dumpL1 | dumpL2 => exact .inl rfl
  | ptedec | vasplit | rootdec | cpush | cflush => exact .inr ⟨rfl, _, rfl⟩

theorem accepted_coPending (i : Instr) (s : State) :
    (accepted i s).coPending = s.coPending ∨ i = .cflush ∨ ∃ vs ve ps d, i = .cpush vs ve ps d := by
  cases i with
  | cflush => exact .inr (.inl rfl)
  | cpush vs ve ps d => exact .inr (.inr ⟨vs, ve, ps, d, rfl⟩)
  | ptedec | vasplit | rootdec | xlate | dumpL0 | dumpL1 | dumpL2 => exact .inl rfl

/-! ### Reset, and what the target does -/

section
variable {s t : State} {e : Input}

theorem outputs_of_actsAtOnce (h : actsAtOnce s e = some t) :
    t.events = s.events ∧ t.reads = s.reads ∧ t.responses = s.responses := by
  cases e <;> cases h <;> exact ⟨rfl, rfl, rfl⟩

theorem byteOrder_of_actsAtOnce (h : actsAtOnce s e = some t) : t.byteOrder = s.byteOrder := by
  cases e <;> cases h <;> rfl

/-- The target alone writes its memory (20_memory R44). -/
theorem mem_of_actsAtOnce (h : actsAtOnce s e = some t) : t.mem = s.mem ∨ ∃ cells, e = .targetStore cells := by
  cases e <;> cases h
  case targetStore cells => exact .inr ⟨cells, rfl⟩
  all_goals exact .inl rfl

/-- Reset alone touches the block's registers (70 R200). -/
theorem registers_of_actsAtOnce (h : actsAtOnce s e = some t) :
    e = .reset ∧ t.phase = .idle ∨
      t.phase = s.phase ∧ t.coPending = s.coPending ∧ t.xlLevel = s.xlLevel := by
  cases e <;> cases h
  case reset => exact .inl ⟨rfl, rfl⟩
  all_goals exact .inr ⟨rfl, rfl, rfl⟩

end

/-! ### Any step -/

/-- Settles O16: of all that a step can do, a store of the target alone writes memory. -/
theorem blockWritesNoMemory : Obligations.BlockWritesNoMemory := by
  intro s t hstep hstore
  have hkept : t.mem = s.mem ∧ t.byteOrder = s.byteOrder := by
    cases stepped_of_step hstep with
    | waits => exact ⟨rfl, rfl⟩
    | acts e rest hin hacts =>
      obtain hmem | ⟨cells, rfl⟩ := mem_of_actsAtOnce hacts
      · exact ⟨hmem, byteOrder_of_actsAtOnce (s := setInputs rest s) hacts⟩
      · exact absurd hin (hstore cells rest)
    | accepts r rest i =>
      obtain ⟨hmem, -, horder, -⟩ := sameTarget_accepted i (setInputs rest s)
      exact ⟨hmem, horder⟩
    | runs ins hrun =>
      obtain ⟨hmem, -, horder, -⟩ := hrun.runsOn.target
      exact ⟨hmem, horder⟩
  obtain ⟨hmem, horder⟩ := hkept
  exact ⟨fun a => by rw [hmem], hmem, horder⟩

/-- Settles O41: of all that a step can do, only reset and an accepted CPUSH or CFLUSH touch `co_pending`. -/
theorem onlyCoalescerCommandsTouchPending : Obligations.OnlyCoalescerCommandsTouchPending := by
  intro s t hstep
  cases stepped_of_step hstep with
  | waits => exact .inl rfl
  | acts e rest hin hacts =>
    obtain ⟨rfl, -⟩ | ⟨-, hpending, -⟩ := registers_of_actsAtOnce hacts
    · exact .inr (.inl ⟨rest, hin⟩)
    · exact .inl hpending
  | accepts r rest i hidle hin hdecode =>
    exact (accepted_coPending i (setInputs rest s)).imp_right fun hi => .inr ⟨r, rest, i, hidle, hin, hdecode, hi⟩
  | runs ins hrun => exact .inl hrun.runsOn.pending

/-- Settles O42: a command in progress appends to the outputs, an accepted one responds at most, and nothing else touches them. -/
theorem outputsAreAppendOnly : Obligations.OutputsAreAppendOnly := by
  intro s t hstep
  cases stepped_of_step hstep with
  | waits => exact ⟨List.prefix_rfl, .inl rfl, .inl rfl⟩
  | acts e rest hin hacts =>
    obtain ⟨hevents, hreads, hresponses⟩ := outputs_of_actsAtOnce hacts
    exact ⟨hevents ▸ List.prefix_rfl, .inl hresponses, .inl hreads⟩
  | accepts r rest i =>
    have hevents := accepted_events i (setInputs rest s)
    exact ⟨hevents ▸ List.prefix_rfl, (accepted_ends i _).imp_right And.right, .inl (accepted_reads i _)⟩
  | runs ins hrun =>
    have h := hrun.runsOn
    exact ⟨h.events, h.ends.imp And.right And.right, hrun.reads_cases⟩

/-- Settles O43: a response is delivered by an accepted command that answers at once, or ends the command in progress. -/
theorem responseReturnsToIdle : Obligations.ResponseReturnsToIdle := by
  intro s t hstep
  cases stepped_of_step hstep with
  | waits ins hidle => exact ⟨fun hne => absurd rfl hne, fun hbusy => absurd hidle hbusy⟩
  | acts e rest hin hacts =>
    obtain ⟨-, -, hresponses⟩ := outputs_of_actsAtOnce hacts
    refine ⟨fun hne => absurd hresponses hne, fun hbusy hidle => .inr ?_⟩
    obtain ⟨rfl, -⟩ | ⟨hphase, -⟩ := registers_of_actsAtOnce hacts
    · exact ⟨rest, hin⟩
    · exact absurd (hphase.symm.trans hidle) hbusy
  | accepts r rest i hidle =>
    refine ⟨fun hne => ?_, fun hbusy => absurd hidle hbusy⟩
    obtain ⟨hphase, -⟩ := (accepted_ends i (setInputs rest s)).resolve_left hne
    exact hphase
  | runs ins hrun =>
    obtain ⟨hphase, hresponses⟩ | ⟨hphase, hresponse⟩ := hrun.runsOn.ends
    · exact ⟨fun hne => absurd hresponses hne, fun hbusy hidle => absurd (hphase.symm.trans hidle) hbusy⟩
    · exact ⟨fun _ => hphase, fun _ _ => .inl hresponse⟩

/-! ### A walk -/

/-- The walk goes one level down, or ends with a response (41_translator R110). -/
theorem walkStep_ends (s : State) :
    ((walkStep s).phase = s.phase ∧ (walkStep s).responses = s.responses ∧
        s.xlLevel.next? = some (walkStep s).xlLevel) ∨
      ((walkStep s).phase = .idle ∧ ∃ r, (walkStep s).responses = s.responses ++ [r]) := by
  rw [← readEntry_phase (walkAddr s) s, ← readEntry_responses (walkAddr s) s, ← readEntry_xlLevel (walkAddr s) s]
  obtain ⟨-, h⟩ | ⟨raw, -, h⟩ := walkStep_cases s <;> rw [h]
  · exact .inr ⟨rfl, _, rfl⟩
  · obtain ⟨l, -, hl, h⟩ | ⟨r, h, -⟩ := walkEntry_cases raw (readEntry (walkAddr s) s).2 <;> rw [h]
    · exact .inl ⟨rfl, rfl, hl⟩
    · exact .inr ⟨rfl, r, rfl⟩

/-- Settles O20: from XWALK only a walk step, reset or a change of the target is left of what a step can do. -/
theorem walkLeavesOnlyWithAResponse : Obligations.WalkLeavesOnlyWithAResponse := by
  intro s t hwalk hstep
  have hbusy : s.phase ≠ .idle := by
    rw [hwalk]
    exact nofun
  cases stepped_of_step hstep with
  | waits ins hidle => exact absurd hidle hbusy
  | acts e rest hin hacts =>
    obtain ⟨-, -, hresponses⟩ := outputs_of_actsAtOnce hacts
    obtain ⟨rfl, hphase⟩ | ⟨hphase, -, hlevel⟩ := registers_of_actsAtOnce hacts
    · exact .inr (.inr ⟨hphase, hresponses, rest, hin⟩)
    · exact .inl ⟨hphase.trans hwalk, hresponses, .inl hlevel⟩
  | accepts r rest i hidle => exact absurd hidle hbusy
  | runs ins hrun =>
    cases hrun with
    | walks =>
      obtain ⟨hphase, hresponses, hlevel⟩ | hend := walkStep_ends (setInputs ins s)
      · exact .inl ⟨hphase.trans hwalk, hresponses, .inr hlevel⟩
      · exact .inr (.inl hend)
    | loads _ hphase | scans _ _ hphase => exact nomatch hwalk.symm.trans hphase

end Sys2Proof.Machine
end

section
/-! The steps that one entry of the schedule makes: a command, a pseudo-command, reset, a change of the target, and nothing at all
(log 2; 30_encoding R86; 70_reset_and_hazards R200, R201, R203). -/

namespace Sys2Proof.Machine

/-- Settles O4: the schedule's head is a command that decodes. -/
theorem stepRunsTheDecodedCommand : Obligations.StepRunsTheDecodedCommand :=
  fun _ _ _ _ hidle hin hdecode => step_of_command hidle hin hdecode

/-- Settles O36: with nothing presented the block goes on by itself, which in IDLE is to wait. -/
theorem idleBlockWaits : Obligations.IdleBlockWaits := by
  intro s hidle hquiet
  rw [step_of_nil hquiet, progress_of_idle hidle]

/-- Settles O39: the three fields of `State.reset` that R33 fixes. -/
theorem resetStateOfTheBlock : Obligations.ResetStateOfTheBlock := ⟨rfl, rfl, rfl⟩

/-- Settles O40: reset acts at once, as `resetBlock`. -/
theorem resetDropsTheCommand : Obligations.ResetDropsTheCommand := fun _ _ hin =>
  ⟨_, step_of_actsAtOnce hin rfl, rfl, rfl, rfl, rfl, rfl, rfl, rfl, rfl, rfl, rfl, rfl, rfl⟩

/-- Settles O17: a store acts at once, as `targetChange`, which looks at whether the block is busy; a read looks at the flag. -/
theorem changingTargetMakesReadsDraws : Obligations.ChangingTargetMakesReadsDraws := by
  refine ⟨fun s cells rest hin hidle _ => ?idle, fun s cells rest hin hbusy => ?busy,
    fun s pa hdisturbed hpa => ?read⟩
  case idle =>
    have hset : (setInputs rest s).busy = false := busy_of_idle hidle
    rw [step_of_actsAtOnce hin rfl, targetChange, hset, Bool.or_false]
    rfl
  case busy =>
    have hset : (setInputs rest s).busy = true := (busy_iff _).2 hbusy
    rw [step_of_actsAtOnce hin rfl, targetChange, hset, Bool.or_true]
    rfl
  case read =>
    rw [readEntry, if_pos hpa, if_pos hdisturbed]
    rfl

/-! ### Pseudo-commands -/

theorem step_of_encoded {s : State} {i : Instr} {rest : List Input} (hidle : s.phase = .idle)
    (hin : s.inputs = .command (encode i) :: rest) : step s = .next (accepted i (setInputs rest s)) := by
  have hdecode : decode (encode i) = .ok i := (decode_ok_iff _ _).2 ⟨encode_word i, carriesOperands_encode i⟩
  rw [step_of_command hidle hin hdecode]
  exact exec_idle (s := setInputs rest s) hidle i

/-- A run of the machine begins with its step. -/
theorem run_succ_of_step {s t : State} (h : step s = .next t) (k : Nat) :
    Sys2Proof.core.run (k + 1) s = Sys2Proof.core.run k t :=
  core_run_succ (M := Sys2Proof.core) h k

/-- DUMPCUR: the expansion, ROOTDEC of the control value, and the look at its response (R86, log 19). -/
theorem run_dumpcur {s : State} {si : Bool} {rest : List Input} (hidle : s.phase = .idle)
    (hin : s.inputs = .pseudo (.dumpcur si) :: rest) :
    Sys2Proof.core.run 3 s = .next { s with
      inputs := dumpcurFollow si (some (rootdecResponse s.ctrl)) ++ rest
      responses := s.responses ++ [rootdecResponse s.ctrl] } := by
  have hexpand : step s =
      .next (setInputs (.command (encode (.rootdec s.ctrl)) :: .dumpcurBranch si :: rest) s) :=
    step_of_pseudo hidle hin
  have hrootdec : step (setInputs (.command (encode (.rootdec s.ctrl)) :: .dumpcurBranch si :: rest) s) =
      .next (respond (rootdecResponse s.ctrl) (setInputs (.dumpcurBranch si :: rest) s)) :=
    step_of_encoded (s := setInputs _ s) (i := .rootdec s.ctrl) hidle rfl
  have hbranch : step (respond (rootdecResponse s.ctrl) (setInputs (.dumpcurBranch si :: rest) s)) =
      .next (setInputs (dumpcurFollow si (some (rootdecResponse s.ctrl)) ++ rest)
        (respond (rootdecResponse s.ctrl) (setInputs (.dumpcurBranch si :: rest) s))) := by
    rw [step_of_dumpcurBranch rfl rfl, respond_responses, List.getLast?_concat]
  rw [run_succ_of_step hexpand, run_succ_of_step hrootdec, run_succ_of_step hbranch, respond, ← hidle]
  rfl

/-- ROOTDEC's status says whether the mode is 8, and its `r0` is the root address (40_extractor R96). -/
theorem dumpcurFollow_rootdec (si : Bool) (ctrl : Word) :
    dumpcurFollow si (some (rootdecResponse ctrl)) =
      if ctrl.toNat / 2 ^ 60 = 8 then
        [.command (encode (.dumpL0 si (BitVec.ofNat 64 (ctrl.toNat % 2 ^ 44 * 4096)) 0))]
      else [] := by
  rw [rootdecResponse_eq]
  by_cases hmode : ctrl.toNat / 2 ^ 60 = 8
  · simp only [dumpcurFollow, hmode, if_true]
  · simp only [dumpcurFollow, hmode, if_false]

/-- Settles O37: DUMPCUR's three steps are `run_dumpcur`, with `dumpcurFollow_rootdec` for its two branches. -/
theorem pseudoCommandsExpand : Obligations.PseudoCommandsExpand := by
  refine ⟨fun s si rest hidle hin => ?dumpcur, fun s si root rest hidle hin => step_of_pseudo hidle hin,
    fun s root va rest hidle hin => step_of_pseudo hidle hin⟩
  case dumpcur =>
    rw [run_dumpcur hidle hin, dumpcurFollow_rootdec]
    refine ⟨fun hmode => ?_, fun hmode => ?_⟩
    · rw [if_neg hmode, List.nil_append]
    · rw [if_pos hmode, List.singleton_append]

end Sys2Proof.Machine
end

section
/-! The scan sequencer's steps one by one: a table entered, read, scanned and ended (43_dump R151 to R153, R156, R158, R159). -/

namespace Sys2Proof.Machine

/-- Settles O22: from IDLE, acceptance is `acceptDump`. -/
theorem dumpBeginsItsTable : Obligations.DumpBeginsItsTable := fun si base voff _ hidle =>
  ⟨exec_idle hidle (.dumpL0 si base voff), exec_idle hidle (.dumpL1 si base voff), exec_idle hidle (.dumpL2 si base voff)⟩

section
variable {ld : Loading} {raw : Word}

theorem storeEntry_of_more (h : ld.got.length + 1 < Config.entries) (s : State) :
    storeEntry ld raw s = { s with drLoad := some { ld with got := ld.got ++ [raw] } } := by
  obtain ⟨-, heq⟩ | ⟨hlast, -⟩ := storeEntry_cases ld raw s
  · exact heq
  · exact absurd h (Nat.not_lt.2 hlast)

theorem storeEntry_of_last (h : Config.entries ≤ ld.got.length + 1) (s : State) :
    storeEntry ld raw s = pushFrame ({ ld with got := ld.got ++ [raw] } : Loading).frame { s with drLoad := none } := by
  obtain ⟨hmore, -⟩ | ⟨-, heq⟩ := storeEntry_cases ld raw s
  · exact absurd hmore (Nat.not_lt.2 h)
  · exact heq

end

/-- Settles O23: the step is `loadStep_of_entryAt_some`, and `storeEntry` on both sides of the last entry. -/
theorem tableIsReadWholeInOrder : Obligations.TableIsReadWholeInOrder := by
  intro s ld raw hphase hstill hquiet hload _ hraw
  have hentry : s.entryAt (loadAddr ld) = some raw := hraw
  have hstep := step_of_loading hphase hquiet hload
  rw [loadStep_of_entryAt_some hstill hentry, requestFor_of_entryAt hentry] at hstep
  refine ⟨fun hmore => ?more, fun hlast => ?last⟩
  case more =>
    rw [storeEntry_of_more (Nat.add_lt_of_lt_sub hmore)] at hstep
    exact hstep
  case last =>
    rw [storeEntry_of_last (Nat.le_of_eq (congrArg (· + 1) hlast).symm)] at hstep
    exact hstep

/-- Settles O25: an entry that is not processed is passed with its frame's coalescer as it was. -/
theorem skippedEntryTouchesNothing : Obligations.SkippedEntryTouchesNothing := by
  intro s f below raw hscan hskip
  have hp : ¬ processed s.drShow raw = true := by
    rw [processed_iff, isProcessed]
    obtain ⟨hshow, hv⟩ | ⟨hshow, hzero⟩ := hskip
    · simp only [hshow, hv, Bool.false_eq_true, and_false, false_and, or_self, not_false_eq_true]
    · simp only [hshow, hzero, Bool.true_eq_false, ne_eq, not_true, and_false, false_and, or_self, not_false_eq_true]
  obtain ⟨hphase, hquiet, hload, hstack, hraw⟩ := hscan
  rw [step_of_frame hphase hquiet hload hstack, frameStep_skips hraw hp, scannedPast, List.append_nil, advance]

/-- Settles O27: the step is `scanEntry_directory`. -/
theorem directoryEntryOpensItsChild : Obligations.DirectoryEntryOpensItsChild := by
  intro s f below raw l hscan hp hk hl
  rw [hscan.step_eq hp, scanEntry_directory hk hl]
  rfl

/-- Settles O29: the step is `scanEntry_invalid`. -/
theorem invalidEntryIsReported : Obligations.InvalidEntryIsReported := by
  intro s f below raw hscan hshow hne hk
  rw [hscan.step_eq (.inr ⟨hshow, hne⟩), scanEntry_invalid hk]
  rfl

/-- Settles O30: behind its last entry the frame's step is `endTable`, with a frame below or without. -/
theorem tableEndFlushesAndPops : Obligations.TableEndFlushesAndPops := by
  intro s f below hphase hquiet hload hstack hlen hidx
  have hend : f.tbl[f.idx]? = none := List.getElem?_eq_none (by rw [hlen, hidx])
  have hstep : step s = .next (endTable f below s) := by
    rw [step_of_frame hphase hquiet hload hstack, frameStep, hend]
  refine ⟨fun hne => ?resumes, fun hnil => ?last⟩
  case resumes => rw [hstep, endTable_of_ne_nil hne]
  case last =>
    subst hnil
    rw [hstep, endTable_nil]
    exact ⟨_, rfl, rfl, rfl, rfl, rfl, rfl, rfl, rfl, rfl, rfl, rfl⟩

end Sys2Proof.Machine
end

section
/-! A command in progress takes no notice of what is presented (70_reset_and_hazards R205). -/

namespace Sys2Proof.Machine

section
variable (ins : List Input) (s : State)

theorem readEntry_setInputs (pa : Nat) :
    readEntry pa (setInputs ins s) = ((readEntry pa s).1, setInputs ins (readEntry pa s).2) := by
  unfold readEntry
  split
  · rw [setInputs_disturbed]
    split <;> rfl
  · rfl

theorem walkEntry_setInputs (raw : Word) : walkEntry raw (setInputs ins s) = setInputs ins (walkEntry raw s) := by
  simp only [walkEntry, setInputs_xlLevel]
  cases pteKind raw with
  | invalid | leaf => rfl
  | directory => cases s.xlLevel.next? <;> rfl

theorem walkStep_setInputs : walkStep (setInputs ins s) = setInputs ins (walkStep s) := by
  have haddr : walkAddr (setInputs ins s) = walkAddr s := rfl
  rw [walkStep, walkStep, haddr, readEntry_setInputs]
  cases readEntry (walkAddr s) s with
  | mk answer s' =>
    cases answer with
    | none => rfl
    | some raw => exact walkEntry_setInputs ins s' raw

theorem storeEntry_setInputs (ld : Loading) (raw : Word) :
    storeEntry ld raw (setInputs ins s) = setInputs ins (storeEntry ld raw s) := by
  unfold storeEntry
  simp only
  split <;> rfl

theorem loadStep_setInputs (ld : Loading) : loadStep ld (setInputs ins s) = setInputs ins (loadStep ld s) := by
  rw [loadStep, loadStep, readEntry_setInputs]
  cases readEntry (loadAddr ld) s with
  | mk answer s' =>
    cases answer with
    | none => rfl
    | some raw => exact storeEntry_setInputs ins s' ld raw

theorem scanEntry_setInputs (f : Frame) (below : List Frame) (raw : Word) :
    scanEntry f below raw (setInputs ins s) = setInputs ins (scanEntry f below raw s) := by
  cases hk : pteKind raw with
  | invalid =>
    rw [scanEntry_invalid hk, scanEntry_invalid hk]
    rfl
  | leaf =>
    rw [scanEntry_leaf hk, scanEntry_leaf hk]
    rfl
  | directory =>
    cases hl : f.level.next? with
    | none =>
      rw [scanEntry_malformed hk hl, scanEntry_malformed hk hl]
      rfl
    | some l =>
      rw [scanEntry_directory hk hl, scanEntry_directory hk hl]
      rfl

theorem endTable_setInputs (f : Frame) (below : List Frame) :
    endTable f below (setInputs ins s) = setInputs ins (endTable f below s) := by
  cases below with
  | nil =>
    rw [endTable_nil, endTable_nil]
    rfl
  | cons g rest =>
    rw [endTable_of_ne_nil (List.cons_ne_nil g rest), endTable_of_ne_nil (List.cons_ne_nil g rest)]
    rfl

theorem frameStep_setInputs (f : Frame) (below : List Frame) :
    frameStep f below (setInputs ins s) = setInputs ins (frameStep f below s) := by
  cases hraw : f.tbl[f.idx]? with
  | none =>
    simp only [frameStep, hraw]
    exact endTable_setInputs ins s f below
  | some raw =>
    by_cases hp : processed s.drShow raw = true
    · rw [frameStep_scans (s := setInputs ins s) hraw hp, frameStep_scans hraw hp]
      exact scanEntry_setInputs ins s f below raw
    · rw [frameStep_skips (s := setInputs ins s) hraw hp, frameStep_skips hraw hp]
      rfl

end

theorem progress_setInputs {s t : State} (ins : List Input) (h : progress s = .next t) :
    progress (setInputs ins s) = .next (setInputs ins t) := by
  unfold progress at h ⊢
  rw [setInputs_phase]
  cases hphase : s.phase with
  | idle =>
    rw [hphase] at h
    cases h
    rfl
  | xwalk =>
    rw [hphase] at h
    cases h
    exact congrArg _ (walkStep_setInputs ins s)
  | drun =>
    rw [hphase] at h
    simp only [scanStep, setInputs_drLoad, setInputs_drStack] at h ⊢
    cases hload : s.drLoad with
    | some ld =>
      rw [hload] at h
      cases h
      exact congrArg _ (loadStep_setInputs ins s ld)
    | none =>
      cases hstack : s.drStack with
      | nil =>
        rw [hload, hstack] at h
        cases h
      | cons f below =>
        rw [hload, hstack] at h
        cases h
        exact congrArg _ (frameStep_setInputs ins s f below)

/-- Settles O35: the busy block goes on by itself, which does not depend on what is presented. -/
theorem busyBlockHoldsACommand : Obligations.BusyBlockHoldsACommand := by
  intro s hbusy
  refine ⟨exec_busy hbusy, fun r rest hinv hin => ?_⟩
  obtain ⟨t, ht⟩ := progress_answers (hinv.setInputs []).sequencerOk
  refine ⟨t, (step_of_nil rfl).trans ht, ?_⟩
  rw [step_of_presented_busy hbusy hin rfl]
  exact progress_setInputs (s := setInputs [] s) s.inputs ht

end Sys2Proof.Machine
end

section
/-! Every command ends: the steps that are left of it at most (43_dump R163; 41_translator R110, R115). -/

namespace Sys2Proof.Machine

/-! ### The steps that are left -/

/-- The steps that a table takes at most, of whose entries each takes at most `n`: its reads, its entries and its end. -/
def tableSteps (n : Nat) : Nat := Config.entries + (Config.entries * n + 1)

/-- The steps that one entry of a table takes at most: its own, and those of a child table. -/
def entrySteps : Level → Nat
  | .l0 => 1 + tableSteps (1 + tableSteps 1)
  | .l1 => 1 + tableSteps 1
  | .l2 => 1

theorem entrySteps_next {l l' : Level} (h : l.next? = some l') : entrySteps l = 1 + tableSteps (entrySteps l') := by
  cases l <;> cases h <;> rfl

theorem entrySteps_pos (l : Level) : 0 < entrySteps l := by
  cases l with
  | l0 | l1 => exact Nat.add_pos_left Nat.one_pos _
  | l2 => exact Nat.one_pos

/-- The steps left of a frame at most. -/
def frameSteps (f : Frame) : Nat := (f.tbl.length - f.idx) * entrySteps f.level + 1

/-- The steps left of the frames of a stack at most. -/
def stackSteps (fs : List Frame) : Nat := (fs.map frameSteps).sum

/-- The steps left of a table that is being read at most. -/
def loadingSteps (ld : Loading) : Nat :=
  (Config.entries - ld.got.length) + (Config.entries * entrySteps ld.level + 1)

/-- The steps left of the command in progress at most. -/
def stepsLeft (s : State) : Nat :=
  match s.phase with
  | .idle => 0
  | .xwalk => 3 - s.xlLevel.toNat
  | .drun => (s.drLoad.elim 0 loadingSteps) + stackSteps s.drStack

theorem stackSteps_cons (f : Frame) (fs : List Frame) : stackSteps (f :: fs) = frameSteps f + stackSteps fs := rfl

/-- Going past an entry takes at least one step off what is left of its frame, and as many as the entry can take. -/
theorem frameSteps_advance {f : Frame} {raw : Word} (c : Option Region) (hraw : f.tbl[f.idx]? = some raw) :
    frameSteps f = frameSteps (advance f c) + entrySteps f.level := by
  obtain ⟨hlt, -⟩ := List.getElem?_eq_some_iff.1 hraw
  have hleft : f.tbl.length - f.idx = f.tbl.length - (f.idx + 1) + 1 := by omega
  simp only [frameSteps, advance, hleft, Nat.add_mul, Nat.one_mul]
  omega

theorem stackSteps_advance_lt {f : Frame} {raw : Word} (c : Option Region) (below : List Frame)
    (hraw : f.tbl[f.idx]? = some raw) : stackSteps (advance f c :: below) < frameSteps f + stackSteps below := by
  have hpos := entrySteps_pos f.level
  rw [stackSteps_cons, frameSteps_advance c hraw]
  omega

theorem loadingSteps_append {ld : Loading} {raw : Word} (h : ld.got.length < Config.entries) :
    loadingSteps { ld with got := ld.got ++ [raw] } < loadingSteps ld := by
  simp only [loadingSteps, List.length_append, List.length_singleton]
  omega

/-- The last read of a table takes a step off what is left of it, its frame being still to be scanned. -/
theorem frameSteps_frame {ld : Loading} {raw : Word} (h : ld.got.length < Config.entries) :
    frameSteps ({ ld with got := ld.got ++ [raw] } : Loading).frame < loadingSteps ld := by
  have hlen : ld.got.length + 1 ≤ Config.entries := h
  have hscan := Nat.mul_le_mul_right (entrySteps ld.level) hlen
  simp only [frameSteps, loadingSteps, Loading.frame, List.length_append, List.length_singleton, Nat.sub_zero]
  omega

theorem loadingSteps_child {l l' : Level} (h : l.next? = some l') (base : Word) (voff : Nat) :
    loadingSteps { base := base, level := l', voff := voff, got := [] } + 1 = entrySteps l := by
  rw [entrySteps_next h, Nat.add_comm]
  rfl

/-! ### Each step takes one off -/

section
variable {s t : State}

theorem stepsLeft_of_idle (h : s.phase = .idle) : stepsLeft s = 0 := by rw [stepsLeft, h]

theorem stepsLeft_of_xwalk (h : s.phase = .xwalk) : stepsLeft s = 3 - s.xlLevel.toNat := by rw [stepsLeft, h]

theorem stepsLeft_of_loading {ld : Loading} {fs : List Frame} (h : s.phase = .drun) (hload : s.drLoad = some ld)
    (hstack : s.drStack = fs) : stepsLeft s = loadingSteps ld + stackSteps fs := by
  rw [stepsLeft, h, hload, hstack]
  rfl

theorem stepsLeft_of_scanning {fs : List Frame} (h : s.phase = .drun) (hload : s.drLoad = none)
    (hstack : s.drStack = fs) : stepsLeft s = stackSteps fs := by
  rw [stepsLeft, h, hload, hstack]
  exact Nat.zero_add _

theorem stepsLeft_walkStep (hphase : s.phase = .xwalk) : stepsLeft (walkStep s) < stepsLeft s := by
  have hlevel := level_toNat_le s.xlLevel
  rw [stepsLeft_of_xwalk hphase]
  obtain ⟨hphase', -, hnext⟩ | ⟨hidle, -⟩ := walkStep_ends s
  · rw [stepsLeft_of_xwalk (hphase'.trans hphase), level_toNat_next hnext]
    omega
  · rw [stepsLeft_of_idle hidle]
    omega

theorem stepsLeft_loadStep {ld : Loading} (hphase : s.phase = .drun) (hload : s.drLoad = some ld)
    (hlt : ld.got.length < Config.entries) : stepsLeft (loadStep ld s) < stepsLeft s := by
  have hphase' : (readEntry (loadAddr ld) s).2.phase = .drun := (readEntry_phase ..).trans hphase
  rw [stepsLeft_of_loading hphase hload (readEntry_drStack (loadAddr ld) s).symm]
  obtain ⟨-, h⟩ | ⟨raw, -, h⟩ := loadStep_cases ld s <;> rw [h]
  · rw [stepsLeft_of_idle (s := raiseHostMemoryError _ _) rfl]
    exact Nat.add_pos_left (Nat.add_pos_left (Nat.sub_pos_of_lt hlt) _) _
  · obtain ⟨-, h⟩ | ⟨-, h⟩ := storeEntry_cases ld raw (readEntry (loadAddr ld) s).2 <;> rw [h]
    · exact lt_of_eq_of_lt (stepsLeft_of_loading hphase' rfl rfl) (Nat.add_lt_add_right (loadingSteps_append hlt) _)
    · exact lt_of_eq_of_lt (stepsLeft_of_scanning hphase' rfl rfl) (Nat.add_lt_add_right (frameSteps_frame hlt) _)

theorem FrameStepped.stepsLeft_lt {f : Frame} {below : List Frame} (h : FrameStepped f below s t)
    (hphase : s.phase = .drun) (hload : s.drLoad = none) (hstack : s.drStack = f :: below) :
    stepsLeft t < stepsLeft s := by
  rw [stepsLeft_of_scanning hphase hload hstack, stackSteps_cons]
  cases h with
  | skips hraw | pushes hraw | reports hraw =>
    exact lt_of_eq_of_lt (stepsLeft_of_scanning hphase hload rfl) (stackSteps_advance_lt _ below hraw)
  | @enters raw l hraw hl =>
    have hchild := loadingSteps_child hl (childBase raw) (entryStart f.voff f.level f.idx)
    refine lt_of_eq_of_lt (stepsLeft_of_loading (fs := advance f none :: below) hphase rfl rfl) ?_
    rw [stackSteps_cons, frameSteps_advance none hraw]
    omega
  | ends =>
    have hleft : 0 < frameSteps f := Nat.succ_pos _
    cases below with
    | nil =>
      rw [endTable_nil, stepsLeft_of_idle rfl]
      omega
    | cons g rest =>
      rw [endTable_of_ne_nil (List.cons_ne_nil g rest)]
      exact lt_of_eq_of_lt (stepsLeft_of_scanning hphase hload rfl) (Nat.lt_add_of_pos_left hleft)

theorem Running.stepsLeft_lt (hrun : Running s t) (h : Machine.sequencerOk s) : stepsLeft t < stepsLeft s := by
  cases hrun with
  | walks hphase => exact stepsLeft_walkStep hphase
  | loads ld hphase hload =>
    obtain ⟨-, -, hloading⟩ := (sequencerOk_of_drun hphase).1 h
    obtain ⟨hlt, -⟩ := hloading ld hload
    exact stepsLeft_loadStep hphase hload hlt
  | scans f below hphase hload hstack => exact (frameStepped f below s).stepsLeft_lt hphase hload hstack

end

/-- With nothing presented, a busy block goes on with its command. -/
theorem Invariant.step_runs {s : State} (h : Invariant s) (hquiet : s.inputs = []) (hbusy : s.phase ≠ .idle) :
    ∃ t, step s = .next t ∧ Running s t := by
  obtain ⟨t, ht⟩ := progress_answers h.sequencerOk
  exact ⟨t, (step_of_nil hquiet).trans ht, running_of_progress hbusy ht⟩

theorem Invariant.reaches_idle {s : State} (h : Invariant s) (hquiet : s.inputs = []) :
    ∃ t, Reaches s t ∧ t.phase = .idle := by
  induction hn : stepsLeft s using Nat.strong_induction_on generalizing s with
  | _ n ih =>
    by_cases hidle : s.phase = .idle
    · exact ⟨s, .refl s, hidle⟩
    · obtain ⟨u, hstep, hrun⟩ := h.step_runs hquiet hidle
      have hless := hrun.stepsLeft_lt h.sequencerOk
      obtain ⟨t, hreach, ht⟩ :=
        ih _ (hn ▸ hless) (stepKeepsTheInvariant s u h hstep) (hrun.runsOn.inputs.trans hquiet) rfl
      exact ⟨t, hreach.head hstep, ht⟩

/-- Settles O49: each step takes at least one off the steps that are left. -/
theorem everyCommandEnds : Obligations.EveryCommandEnds := by
  intro s hinv hquiet
  obtain ⟨t, ⟨k, hrun⟩, hidle⟩ := hinv.reaches_idle hquiet
  exact ⟨k, t, hrun, hidle⟩

end Sys2Proof.Machine
end

section
/-! Entries as bytes, command words as numbers, and literals as digits (20_memory R47; 30_encoding R73, R87). -/

namespace Sys2Proof.Machine

/-! ### Bytes -/

theorem extractLsb'_append_lowByte {n : Nat} (x : BitVec n) (b : Byte) : (x ++ b).extractLsb' 0 8 = b :=
  BitVec.extractLsb'_append_eq_right

theorem extractLsb'_append_highBytes {n lo : Nat} (x : BitVec n) (b : Byte) (h : 8 ≤ lo) :
    (x ++ b).extractLsb' lo 8 = x.extractLsb' (lo - 8) 8 :=
  BitVec.extractLsb'_append_eq_of_le h

theorem extractLsb'_joinBytes (byte : Nat → Byte) {i : Nat} (hi : i < 8) :
    (joinBytes (byte 0) (byte 1) (byte 2) (byte 3) (byte 4) (byte 5) (byte 6) (byte 7)).extractLsb' (8 * i) 8 =
      byte i := by
  unfold joinBytes
  interval_cases i <;> simp [extractLsb'_append_highBytes, extractLsb'_append_lowByte]

/-- Settles O15: the words of both byte orders are the eight bytes joined, the big-endian one from the last byte on. -/
theorem entryBytesFollowTheByteOrder : Obligations.EntryBytesFollowTheByteOrder := by
  intro m pa i hi
  refine ⟨extractLsb'_joinBytes (fun i => Memory.readByte m (pa + i)) hi, ?big⟩
  case big =>
    have h := extractLsb'_joinBytes (fun i => Memory.readByte m (pa + (7 - i))) (i := 7 - i) (by omega)
    rwa [Nat.sub_sub_self (Nat.le_of_lt_succ hi)] at h

/-- Settles O1: twelve closed facts about the decoder. -/
theorem tableWordsDecode : Obligations.TableWordsDecode := by
  unfold Obligations.TableWordsDecode
  decide

/-! ### Digits -/

/-- The digits that `Nat.toDigits` writes have their values, in every base up to 16. -/
theorem digitValue_digitChar {base d : Nat} (hd : d < 16) :
    digitValue base d.digitChar = if d < base then some d else none := by
  interval_cases d <;> rfl

theorem digitsValue_append (base acc : Nat) (cs : List Char) (c : Char) :
    digitsValue base acc (cs ++ [c]) =
      (digitsValue base acc cs).bind fun v => (digitValue base c).map fun d => v * base + d := by
  induction cs generalizing acc with
  | nil =>
    simp only [List.nil_append, digitsValue, Option.bind_some]
    cases digitValue base c <;> rfl
  | cons c' cs ih =>
    simp only [List.cons_append, digitsValue]
    cases digitValue base c' with
    | none => rfl
    | some d => exact ih _

/-- The digits of a number denote it. -/
theorem digitsValue_toDigits {base : Nat} (hone : 1 < base) (hbase : base ≤ 16) (n : Nat) :
    digitsValue base 0 (Nat.toDigits base n) = some n := by
  induction n using Nat.strong_induction_on with
  | _ n ih =>
    by_cases hn : n < base
    · rw [Nat.toDigits_of_lt_base hn]
      simp only [digitsValue, digitValue_digitChar (hn.trans_le hbase), hn, if_true, Nat.zero_mul, Nat.zero_add]
    · have hle : base ≤ n := Nat.le_of_not_lt hn
      have hmod : n % base < base := Nat.mod_lt n (Nat.zero_lt_of_lt hone)
      have hdiv : n / base < n := Nat.div_lt_self (Nat.zero_lt_of_lt (Nat.lt_of_lt_of_le hone hle)) hone
      rw [Nat.toDigits_of_base_le hone hle, digitsValue_append, ih _ hdiv, digitValue_digitChar (hmod.trans_le hbase),
        if_pos hmod, Option.bind_some, Option.map_some, Nat.div_add_mod' n base]

theorem parseLiteral_decimal {cs : List Char} (hne : cs ≠ []) (hx : 'x' ∉ cs) :
    parseLiteral cs = (digitsValue 10 0 cs).bind fitWord := by
  unfold parseLiteral
  split
  · simp at hx
  · rfl
  · exact absurd rfl hne

theorem parseLiteral_hexadecimal {cs : List Char} (hne : cs ≠ []) :
    parseLiteral ('0' :: 'x' :: cs) = (digitsValue 16 0 cs).bind fitWord := by
  cases cs with
  | nil => exact absurd rfl hne
  | cons c cs => rfl

/-- Settles O38: the digits denote the number, no decimal digit is an `x`, and `fitWord` is the bound. -/
theorem literalsDenoteTheirValues : Obligations.LiteralsDenoteTheirValues := by
  intro n
  have hx : 'x' ∉ Nat.toDigits 10 n := fun h =>
    absurd (Nat.isDigit_of_mem_toDigits (by decide) (Nat.le_refl 10) h) (by decide)
  rw [parseLiteral_decimal Nat.toDigits_ne_nil hx, parseLiteral_hexadecimal Nat.toDigits_ne_nil,
    digitsValue_toDigits (by decide) (by decide), digitsValue_toDigits (by decide) (by decide)]
  exact ⟨rfl, rfl⟩

end Sys2Proof.Machine
end

section
/-! The parts of `dumpTable` (43_dump R161): the whole of a table read, one entry of its loop, and the events of a level. -/

namespace Sys2Proof.Machine

/-! ### One entry of the loop -/

/-- What the scan of one entry, but for a Directory with a child table, emits and leaves pending (R152, R155, R157, R159). -/
inductive EntryScanned (l : Level) (voff i : Nat) (raw : Word) : Option Region → Option Region → List Event → Prop where
  | skips (c : Option Region) : EntryScanned l voff i raw c c []
  | pushes (c : Option Region) :
      EntryScanned l voff i raw c (coalPush c (leafTuple voff l i raw)).1
        (regionEvents l (coalPush c (leafTuple voff l i raw)).2)
  | reports (c : Option Region) {ev : Event} (hdir : isDir ev = false) (hlevel : eventLevel ev = l)
      (hstart : eventStart ev = entryStart voff l i) :
      EntryScanned l voff i raw c none (regionEvents l c ++ [ev])

/-- All that one entry of the loop can do, whatever the child tables are: the scan goes past it, or dumps its child table first. -/
theorem scanEntries_cons_cases (l : Level) (si : Bool) (voff : Nat) (raw : Word) (words : List Word) (i : Nat)
    (c : Option Region) :
    (∃ c' evs, EntryScanned l voff i raw c c' evs ∧ ∀ child,
      scanEntries child l si voff (raw :: words) i c =
        scanThen (scanEmits evs) (scanEntries child l si voff words (i + 1) c')) ∨
    ∃ l' base, l.next? = some l' ∧ ∀ child,
      scanEntries child l si voff (raw :: words) i c =
        scanThen (scanEmits (regionEvents l c ++ [.dir l i (entryStart voff l i) base]))
          (scanThen (child base (entryStart voff l i)) (scanEntries child l si voff words (i + 1) none)) := by
  by_cases hp : processed si raw = true
  case neg =>
    refine .inl ⟨c, [], .skips c, fun child => ?_⟩
    simp only [scanEntries, hp]
    rfl
  case pos =>
    cases hk : pteKind raw with
    | invalid =>
      refine .inl ⟨none, _, .reports (ev := .invalid l i (entryStart voff l i) raw) c rfl rfl rfl, fun child => ?_⟩
      simp only [scanEntries, hp, hk]
      rfl
    | leaf =>
      refine .inl ⟨_, _, .pushes c, fun child => ?_⟩
      simp only [scanEntries, hp, hk]
      rfl
    | directory =>
      cases hl : l.next? with
      | none =>
        refine .inl ⟨none, _, .reports (ev := .malformed l i (entryStart voff l i) raw) c rfl rfl rfl, fun child => ?_⟩
        simp only [scanEntries, hp, hk, hl]
        rfl
      | some l' =>
        refine .inr ⟨l', physOfPpn (ptePpn raw), rfl, fun child => ?_⟩
        simp only [scanEntries, hp, hk, hl]
        rfl

theorem scanEntries_nil (child : Nat → Nat → Scan) (l : Level) (si : Bool) (voff i : Nat) (c : Option Region) :
    scanEntries child l si voff [] i c = scanEmits (regionEvents l c) := rfl

theorem regionEvents_forall {p : Event → Prop} {l : Level} {c : Option Region}
    (h : ∀ q, c = some q → p (.region l q.vs q.ve q.ps q.fl)) : ∀ ev ∈ regionEvents l c, p ev := by
  cases c with
  | none => exact nofun
  | some q => exact List.forall_mem_singleton.2 (h q rfl)

section
variable {l : Level} {voff i : Nat} {raw : Word} {c c' : Option Region} {evs : List Event}

/-- No child table is announced. -/
theorem EntryScanned.isDir_eq_false (h : EntryScanned l voff i raw c c' evs) : ∀ ev ∈ evs, isDir ev = false := by
  have hflush (c : Option Region) : ∀ ev ∈ regionEvents l c, isDir ev = false := regionEvents_forall fun _ _ => rfl
  cases h with
  | skips => exact nofun
  | pushes => exact hflush _
  | reports hdir => exact List.forall_mem_append.2 ⟨hflush c, List.forall_mem_singleton.2 hdir⟩

theorem EntryScanned.eventLevel_eq (h : EntryScanned l voff i raw c c' evs) : ∀ ev ∈ evs, eventLevel ev = l := by
  have hflush (c : Option Region) : ∀ ev ∈ regionEvents l c, eventLevel ev = l := regionEvents_forall fun _ _ => rfl
  cases h with
  | skips => exact nofun
  | pushes => exact hflush _
  | reports _ hlevel => exact List.forall_mem_append.2 ⟨hflush c, List.forall_mem_singleton.2 hlevel⟩

end

/-! ### A part and then another -/

theorem scanThen_of_ok {a : Scan} (h : a.failed = none) (b : Scan) :
    scanThen a b = { reads := a.reads ++ b.reads, events := a.events ++ b.events, failed := b.failed } := by
  simp only [scanThen, h]

theorem scanThen_scanEmits (evs : List Event) (b : Scan) :
    scanThen (scanEmits evs) b = { reads := b.reads, events := evs ++ b.events, failed := b.failed } := rfl

theorem failed_scanThen {a b : Scan} : (scanThen a b).failed = none ↔ a.failed = none ∧ b.failed = none := by
  cases h : a.failed with
  | none => simp only [scanThen_of_ok h, true_and]
  | some pa => simp only [scanThen_of_failed h, h, reduceCtorEq, false_and]

/-- A failed part is the last. -/
theorem scanThen_events (a b : Scan) :
    (scanThen a b).events = a.events ∨ (scanThen a b).events = a.events ++ b.events := by
  cases h : a.failed with
  | none => exact .inr (by rw [scanThen_of_ok h])
  | some pa => exact .inl (by rw [scanThen_of_failed h])

theorem forall_events_scanThen {p : Event → Prop} {a b : Scan} (ha : ∀ ev ∈ a.events, p ev)
    (hb : ∀ ev ∈ b.events, p ev) : ∀ ev ∈ (scanThen a b).events, p ev := by
  obtain h | h := scanThen_events a b <;> rw [h]
  · exact ha
  · exact List.forall_mem_append.2 ⟨ha, hb⟩

/-- The scan of a table begins where the table is read; a table that is not read whole has no events. -/
theorem dumpTable_events_cases (mem : Nat → Option Word) (si : Bool) (l : Level) (ls : List Level) (base voff : Nat) :
    (dumpTable mem si (l :: ls) base voff).events = [] ∨
      ∃ words, (dumpTable mem si (l :: ls) base voff).events =
        (scanEntries (dumpTable mem si ls) l si voff words 0 none).events := by
  rcases htable : readTable mem base Config.entries 0 with ⟨rs, pa | words⟩
  · exact .inl (by rw [dumpTable_of_error htable])
  · exact .inr ⟨words, by rw [dumpTable_of_ok htable]; rfl⟩

end Sys2Proof.Machine
end

section
/-! A DUMP that succeeds reads whole tables, one for each DIR record and one more (43_dump R163). -/

namespace Sys2Proof.Machine

/-- The DIR records of one entry at most: its own, and those of a child table. -/
def entryDirs : Level → Nat
  | .l0 => 1 + 512 * 1
  | .l1 => 1
  | .l2 => 0

theorem entryDirs_next {l l' : Level} (h : l.next? = some l') : entryDirs l = 1 + 512 * entryDirs l' := by
  cases l <;> cases h <;> rfl

/-- The part, if it succeeds, reads 512 entries for each DIR record and for `n` tables more, and has at most `d` DIR records. -/
def ReadsTables (n d : Nat) (sc : Scan) : Prop :=
  sc.failed = none → sc.reads.length = 512 * (n + sc.events.countP isDir) ∧ sc.events.countP isDir ≤ d

theorem readTable_length {mem : Nat → Option Word} (htop : ∀ pa, 2 ^ 64 ≤ pa → mem pa = none) {base n i : Nat}
    {rs : List Nat} {words : List Word} (h : readTable mem base n i = (rs, .ok words)) :
    rs.length = n ∧ words.length = n := by
  induction n generalizing i rs words with
  | zero =>
    cases h
    exact ⟨rfl, rfl⟩
  | succ n ih =>
    cases hm : mem (base + 8 * i) with
    | none => simp only [readTable, hm, reduceCtorEq, Prod.mk.injEq, and_false] at h
    | some raw =>
      have hpa : base + 8 * i < 2 ^ 64 := by
        by_contra hle
        rw [htop _ (Nat.le_of_not_lt hle)] at hm
        cases hm
      rcases hrest : readTable mem base n (i + 1) with ⟨rs', at_ | words'⟩
      · simp only [readTable, hm, hrest, reduceCtorEq, Prod.mk.injEq, and_false] at h
      · obtain ⟨hrs, hwords⟩ := ih hrest
        simp only [readTable, hm, hrest, requestFor_of_lt hpa, Prod.mk.injEq, Except.ok.injEq] at h
        obtain ⟨rfl, rfl⟩ := h
        simp [hrs, hwords]

theorem countP_isDir_eq_zero {evs : List Event} (h : ∀ ev ∈ evs, isDir ev = false) : evs.countP isDir = 0 :=
  List.countP_eq_zero.2 fun ev hev => by simp [h ev hev]

theorem scanEntries_readsTables {child : Nat → Nat → Scan} {l : Level} (si : Bool) (voff : Nat)
    (hchild : ∀ l', l.next? = some l' → ∀ base vs, ReadsTables 1 (512 * entryDirs l') (child base vs))
    (words : List Word) (i : Nat) (c : Option Region) :
    ReadsTables 0 (words.length * entryDirs l) (scanEntries child l si voff words i c) := by
  have hflush (c : Option Region) : (regionEvents l c).countP isDir = 0 :=
    countP_isDir_eq_zero (regionEvents_forall fun _ _ => rfl)
  induction words generalizing i c with
  | nil =>
    intro _
    rw [scanEntries_nil, scanEmits, hflush]
    exact ⟨rfl, Nat.zero_le _⟩
  | cons raw words ih =>
    have hlen : (raw :: words).length * entryDirs l = words.length * entryDirs l + entryDirs l := Nat.succ_mul ..
    obtain ⟨c', evs, hscan, heq⟩ | ⟨l', base, hl, heq⟩ := scanEntries_cons_cases l si voff raw words i c <;> rw [heq, hlen]
    case inl =>
      intro hok
      obtain ⟨hreads, hdirs⟩ := ih (i + 1) c' hok
      simp only [scanThen_scanEmits, List.countP_append, countP_isDir_eq_zero hscan.isDir_eq_false]
      omega
    case inr =>
      intro hok
      obtain ⟨-, hok⟩ := failed_scanThen.1 hok
      obtain ⟨hok', hok''⟩ := failed_scanThen.1 hok
      have hnext := entryDirs_next hl
      obtain ⟨hreads, hdirs⟩ := hchild l' hl base _ hok'
      obtain ⟨hreads', hdirs'⟩ := ih (i + 1) none hok''
      simp only [scanThen_scanEmits, scanThen_of_ok hok', List.countP_append, List.countP_singleton, hflush, isDir,
        List.length_append, if_true]
      omega

theorem dumpTable_readsTables {mem : Nat → Option Word} (htop : ∀ pa, 2 ^ 64 ≤ pa → mem pa = none) (si : Bool)
    (l : Level) (base voff : Nat) :
    ReadsTables 1 (512 * entryDirs l) (dumpTable mem si (levelsFrom l) base voff) := by
  induction hlevels : levelsFrom l generalizing l base voff with
  | nil => rw [levelsFrom_eq] at hlevels; cases hlevels
  | cons l₀ below ih =>
    rw [levelsFrom_eq] at hlevels
    obtain ⟨rfl, hbelow⟩ := List.cons.inj hlevels
    rcases htable : readTable mem base Config.entries 0 with ⟨rs, pa | words⟩
    · rw [dumpTable_of_error htable]
      exact nofun
    · obtain ⟨hrs, hwords⟩ := readTable_length htop htable
      rw [dumpTable_of_ok htable]
      intro hok
      have hscan := scanEntries_readsTables (child := dumpTable mem si below) (l := l) si voff
        (fun l' hl base vs => ih l' base vs (by rw [hl] at hbelow; exact hbelow)) words 0 none
      obtain ⟨-, hok'⟩ := failed_scanThen.1 hok
      obtain ⟨hreads, hdirs⟩ := hscan hok'
      rw [hwords] at hdirs
      simp only [scanThen_of_ok, List.length_append, List.nil_append, hrs, hreads]
      exact ⟨by unfold Config.entries; omega, hdirs⟩

/-- Settles O32: `dumpTable_readsTables` for the DUMP's own table; level 0 has the most DIR records. -/
theorem dumpReadsWholeTables : Obligations.DumpReadsWholeTables := by
  intro mem l si base voff htop hok
  obtain ⟨hreads, hdirs⟩ := dumpTable_readsTables htop si l base.toNat voff.toNat hok
  have hmost : entryDirs l ≤ 513 := by cases l <;> decide
  refine ⟨hreads, hdirs.trans ?_⟩
  omega

end Sys2Proof.Machine
end

section
/-! What a DUMP shows depends on the entries it reads (43_dump R164). -/

namespace Sys2Proof.Machine

section
variable {mem mem' : Nat → Option Word}

/-- The part is the same over two memories that agree at the addresses it reads. -/
def SameIfAgree (mem mem' : Nat → Option Word) (sc sc' : Scan) : Prop :=
  (∀ pa ∈ sc.reads, mem pa = mem' pa) → sc = sc'

theorem SameIfAgree.scanThen {a a' b b' : Scan} (ha : SameIfAgree mem mem' a a') (hb : SameIfAgree mem mem' b b') :
    SameIfAgree mem mem' (scanThen a b) (scanThen a' b') := by
  intro hagree
  cases hfail : a.failed with
  | none =>
    rw [scanThen_of_ok hfail] at hagree
    obtain ⟨hagree_a, hagree_b⟩ := List.forall_mem_append.1 hagree
    rw [ha hagree_a, hb hagree_b]
  | some pa =>
    rw [scanThen_of_failed hfail] at hagree
    rw [← ha hagree, scanThen_of_failed hfail, scanThen_of_failed hfail]

theorem scanEntries_sameIfAgree {child child' : Nat → Nat → Scan} {l : Level} (si : Bool) (voff : Nat)
    (hchild : ∀ l', l.next? = some l' → ∀ base vs, SameIfAgree mem mem' (child base vs) (child' base vs))
    (words : List Word) (i : Nat) (c : Option Region) :
    SameIfAgree mem mem' (scanEntries child l si voff words i c) (scanEntries child' l si voff words i c) := by
  have hemits (evs : List Event) : SameIfAgree mem mem' (scanEmits evs) (scanEmits evs) := fun _ => rfl
  induction words generalizing i c with
  | nil => exact hemits _
  | cons raw words ih =>
    obtain ⟨c', evs, -, heq⟩ | ⟨l', base, hl, heq⟩ := scanEntries_cons_cases l si voff raw words i c <;>
      rw [heq child, heq child']
    · exact (hemits _).scanThen (ih (i + 1) c')
    · exact (hemits _).scanThen ((hchild l' hl base _).scanThen (ih (i + 1) none))

theorem readTable_congr (htop : ∀ pa, 2 ^ 64 ≤ pa → mem pa = none ∧ mem' pa = none) (base n i : Nat)
    (hagree : ∀ pa ∈ (readTable mem base n i).1, mem pa = mem' pa) :
    readTable mem base n i = readTable mem' base n i := by
  induction n generalizing i with
  | zero => rfl
  | succ n ih =>
    cases hm : mem (base + 8 * i) with
    | none =>
      simp only [readTable, hm] at hagree
      have hm' := (mem_eq_of_agree_on_request htop hagree).symm.trans hm
      simp only [readTable, hm, hm']
    | some raw =>
      have hreads : (readTable mem base (n + 1) i).1 = requestFor (base + 8 * i) ++ (readTable mem base n (i + 1)).1 := by
        simp only [readTable, hm]
        split <;> rfl
      rw [hreads] at hagree
      obtain ⟨hhere, hrest⟩ := List.forall_mem_append.1 hagree
      have hm' := (mem_eq_of_agree_on_request htop hhere).symm.trans hm
      simp only [readTable, hm, hm', ih (i + 1) hrest]

theorem dumpTable_sameIfAgree (htop : ∀ pa, 2 ^ 64 ≤ pa → mem pa = none ∧ mem' pa = none) (si : Bool)
    (ls : List Level) (base voff : Nat) :
    SameIfAgree mem mem' (dumpTable mem si ls base voff) (dumpTable mem' si ls base voff) := by
  induction ls generalizing base voff with
  | nil => exact fun _ => rfl
  | cons l ls ih =>
    rcases htable : readTable mem base Config.entries 0 with ⟨rs, pa | words⟩
    · intro hagree
      rw [dumpTable_of_error htable] at hagree
      have htable' := readTable_congr htop base Config.entries 0 (by rw [htable]; exact hagree)
      rw [dumpTable_of_error htable, dumpTable_of_error (htable'.symm.trans htable)]
    · intro hagree
      rw [dumpTable_of_ok htable] at hagree
      obtain ⟨hreads, hscan⟩ := List.forall_mem_append.1 hagree
      have htable' := readTable_congr htop base Config.entries 0 (by rw [htable]; exact hreads)
      rw [dumpTable_of_ok htable, dumpTable_of_ok (htable'.symm.trans htable)]
      rw [scanEntries_sameIfAgree si voff (fun _ _ => ih) words 0 none hscan]

end

/-- Settles O34: `dumpTable_sameIfAgree` for the DUMP's own table. -/
theorem dumpDependsOnWhatItReads : Obligations.DumpDependsOnWhatItReads :=
  fun _ _ l si base voff htop hagree => dumpTable_sameIfAgree htop si (levelsFrom l) base.toNat voff.toNat hagree

end Sys2Proof.Machine
end

section
/-! The order of a DUMP's events (43_dump R162). -/

namespace Sys2Proof.Machine

/-! ### The levels of the records -/

/-- What holds of the scanned level and of the levels of every child's records holds of the level of every record. -/
theorem scanEntries_levels {p : Level → Prop} {child : Nat → Nat → Scan} {l : Level} (si : Bool) (voff : Nat)
    (hl : p l) (hchild : ∀ base vs, ∀ ev ∈ (child base vs).events, p (eventLevel ev)) (words : List Word) (i : Nat)
    (c : Option Region) : ∀ ev ∈ (scanEntries child l si voff words i c).events, p (eventLevel ev) := by
  have hflush (c : Option Region) : ∀ ev ∈ regionEvents l c, p (eventLevel ev) := regionEvents_forall fun _ _ => hl
  induction words generalizing i c with
  | nil => exact hflush c
  | cons raw words ih =>
    obtain ⟨c', evs, hscan, heq⟩ | ⟨l', base, -, heq⟩ := scanEntries_cons_cases l si voff raw words i c <;> rw [heq]
    · exact forall_events_scanThen (fun ev hev => (hscan.eventLevel_eq ev hev).symm ▸ hl) (ih (i + 1) c')
    · exact forall_events_scanThen (List.forall_mem_append.2 ⟨hflush c, List.forall_mem_singleton.2 hl⟩)
        (forall_events_scanThen (hchild base _) (ih (i + 1) none))

theorem dumpTable_levels (mem : Nat → Option Word) (si : Bool) (ls : List Level) (base voff : Nat) :
    ∀ ev ∈ (dumpTable mem si ls base voff).events, eventLevel ev ∈ ls := by
  induction ls generalizing base voff with
  | nil => exact nofun
  | cons l ls ih =>
    obtain h | ⟨words, h⟩ := dumpTable_events_cases mem si l ls base voff <;> rw [h]
    · exact nofun
    · exact scanEntries_levels (p := (· ∈ l :: ls)) si voff List.mem_cons_self
        (fun base vs ev hev => List.mem_cons_of_mem l (ih base vs ev hev)) words 0 none

/-- The events of a child table are of levels below (R156). -/
def ChildBelow (l : Level) (child : Nat → Nat → Scan) : Prop :=
  ∀ base vs, ∀ ev ∈ (child base vs).events, eventLevel ev ≠ l

theorem not_mem_levels_below (l : Level) : l ∉ l.next?.elim [] levelsFrom := by cases l <;> decide

theorem childBelow_dumpTable (mem : Nat → Option Word) (si : Bool) (l : Level) :
    ChildBelow l (dumpTable mem si (l.next?.elim [] levelsFrom)) := by
  intro base vs ev hev heq
  have hmem := dumpTable_levels mem si _ base vs ev hev
  rw [heq] at hmem
  exact not_mem_levels_below l hmem

/-! ### Ascending virtual starts -/

/-- The events of the level `l` among these. -/
def ofLevel (l : Level) (evs : List Event) : List Event := evs.filter fun ev => eventLevel ev == l

theorem ofLevel_append (l : Level) (evs evs' : List Event) : ofLevel l (evs ++ evs') = ofLevel l evs ++ ofLevel l evs' :=
  List.filter_append ..

theorem ofLevel_eq_self {l : Level} {evs : List Event} (h : ∀ ev ∈ evs, eventLevel ev = l) : ofLevel l evs = evs :=
  List.filter_eq_self.2 fun ev hev => beq_iff_eq.2 (h ev hev)

theorem ofLevel_eq_nil {l : Level} {evs : List Event} (h : ∀ ev ∈ evs, eventLevel ev ≠ l) : ofLevel l evs = [] :=
  List.filter_eq_nil_iff.2 fun ev hev heq => h ev hev (beq_iff_eq.1 heq)

/-- The events come in strictly ascending virtual order, from `lo` on. -/
def AscendFrom (lo : Nat) (evs : List Event) : Prop :=
  evs.Pairwise (fun ev ev' => eventStart ev < eventStart ev') ∧ ∀ ev ∈ evs, lo ≤ eventStart ev

theorem AscendFrom.append {lo mid : Nat} {evs evs' : List Event} (h : AscendFrom lo evs)
    (hmid : ∀ ev ∈ evs, eventStart ev < mid) (h' : AscendFrom mid evs') (hlo : lo ≤ mid) :
    AscendFrom lo (evs ++ evs') := by
  obtain ⟨hasc, hfrom⟩ := h
  obtain ⟨hasc', hfrom'⟩ := h'
  refine ⟨List.pairwise_append.2 ⟨hasc, hasc', fun ev hev ev' hev' => (hmid ev hev).trans_le (hfrom' ev' hev')⟩,
    List.forall_mem_append.2 ⟨hfrom, fun ev hev => hlo.trans (hfrom' ev hev)⟩⟩

theorem ascendFrom_singleton (ev : Event) : AscendFrom (eventStart ev) [ev] :=
  ⟨List.pairwise_singleton _ ev, List.forall_mem_singleton.2 (Nat.le_refl _)⟩

theorem ascendFrom_nil (lo : Nat) : AscendFrom lo [] := ⟨List.Pairwise.nil, nofun⟩

/-- Where the next record of the scanned level begins at the earliest: at the pending region, or else at the entry `i`. -/
def pendingStart (voff : Nat) (l : Level) (i : Nat) (c : Option Region) : Nat :=
  c.elim (entryStart voff l i) Region.vs

/-- A pending region begins before the entry. -/
def PendingBefore (top : Nat) (c : Option Region) : Prop := ∀ q, c = some q → q.vs < top

section
variable {voff i : Nat} {l : Level} {c c' : Option Region} {raw : Word}

theorem entryStart_lt_succ (voff : Nat) (l : Level) (i : Nat) : entryStart voff l i < entryStart voff l (i + 1) := by
  rw [entryStart_succ]
  exact Nat.lt_add_of_pos_right (span_pos l)

theorem pendingStart_le (h : PendingBefore (entryStart voff l i) c) :
    pendingStart voff l i c ≤ entryStart voff l i := by
  cases c with
  | none => exact Nat.le_refl _
  | some q => exact (h q rfl).le

theorem ascendFrom_regionEvents (voff i : Nat) (l l' : Level) (c : Option Region) :
    AscendFrom (pendingStart voff l i c) (regionEvents l' c) := by
  cases c with
  | none => exact ascendFrom_nil _
  | some q => exact ascendFrom_singleton _

theorem regionEvents_lt {top : Nat} (h : PendingBefore top c) : ∀ ev ∈ regionEvents l c, eventStart ev < top :=
  regionEvents_forall h

/-- The flush before a record of the entry itself (R156, R157, R159). -/
theorem ascendFrom_flush_append {ev : Event} (h : PendingBefore (entryStart voff l i) c)
    (hstart : eventStart ev = entryStart voff l i) :
    AscendFrom (pendingStart voff l i c) (regionEvents l c ++ [ev]) :=
  (ascendFrom_regionEvents ..).append (regionEvents_lt h) (hstart ▸ ascendFrom_singleton ev) (pendingStart_le h)

theorem flush_append_lt {ev : Event} (h : PendingBefore (entryStart voff l i) c)
    (hstart : eventStart ev = entryStart voff l i) :
    ∀ ev' ∈ regionEvents l c ++ [ev], eventStart ev' < entryStart voff l (i + 1) :=
  have hnext := entryStart_lt_succ voff l i
  List.forall_mem_append.2 ⟨fun ev' hev => (regionEvents_lt h ev' hev).trans hnext,
    List.forall_mem_singleton.2 (hstart ▸ hnext)⟩

/-- The events of one entry ascend, and what is left pending begins after them. -/
theorem EntryScanned.ascends {evs : List Event} (h : EntryScanned l voff i raw c c' evs)
    (hc : PendingBefore (entryStart voff l i) c) :
    PendingBefore (entryStart voff l (i + 1)) c' ∧ AscendFrom (pendingStart voff l i c) evs ∧
      (∀ ev ∈ evs, eventStart ev < pendingStart voff l (i + 1) c') ∧
      pendingStart voff l i c ≤ pendingStart voff l (i + 1) c' := by
  have hnext := entryStart_lt_succ voff l i
  have hle := pendingStart_le hc
  cases h with
  | skips =>
    refine ⟨fun q hq => (hc q hq).trans hnext, ascendFrom_nil _, nofun, ?_⟩
    cases c with
    | none => exact hnext.le
    | some q => exact Nat.le_refl _
  | pushes =>
    have hleaf : PendingBefore (entryStart voff l (i + 1)) (some (leafTuple voff l i raw)) := by
      rintro q ⟨⟩
      exact hnext
    obtain ⟨-, heq⟩ | ⟨q, rfl, -, heq⟩ | ⟨q, rfl, -, heq⟩ := coalPush_cases c (leafTuple voff l i raw) <;> rw [heq]
    · exact ⟨hleaf, ascendFrom_nil _, nofun, hle⟩
    · refine ⟨?_, ascendFrom_nil _, nofun, Nat.le_refl _⟩
      rintro q' ⟨⟩
      exact (hc q rfl).trans hnext
    · exact ⟨hleaf, ascendFrom_singleton _, List.forall_mem_singleton.2 (hc q rfl), hle⟩
  | reports _ _ hstart =>
    exact ⟨nofun, ascendFrom_flush_append hc hstart, flush_append_lt hc hstart, hle.trans hnext.le⟩

end

theorem scanEntries_ascend {child : Nat → Nat → Scan} {l : Level} (si : Bool) (voff : Nat) (hchild : ChildBelow l child)
    (words : List Word) (i : Nat) (c : Option Region) (hc : PendingBefore (entryStart voff l i) c) :
    AscendFrom (pendingStart voff l i c) (ofLevel l (scanEntries child l si voff words i c).events) := by
  have hflush (c : Option Region) : ∀ ev ∈ regionEvents l c, eventLevel ev = l := regionEvents_forall fun _ _ => rfl
  induction words generalizing i c with
  | nil =>
    rw [scanEntries_nil, scanEmits, ofLevel_eq_self (hflush c)]
    exact ascendFrom_regionEvents ..
  | cons raw words ih =>
    obtain ⟨c', evs, hscan, heq⟩ | ⟨l', base, -, heq⟩ := scanEntries_cons_cases l si voff raw words i c <;>
      rw [heq, scanThen_scanEmits, ofLevel_append]
    case inl =>
      obtain ⟨hc', hasc, hlt, hle⟩ := hscan.ascends hc
      rw [ofLevel_eq_self hscan.eventLevel_eq]
      exact hasc.append hlt (ih (i + 1) c' hc') hle
    case inr =>
      have hrest := ih (i + 1) none nofun
      have hbelow : ofLevel l (child base (entryStart voff l i)).events = [] := ofLevel_eq_nil (hchild base _)
      rw [ofLevel_eq_self (List.forall_mem_append.2 ⟨hflush c, List.forall_mem_singleton.2 rfl⟩)]
      refine (ascendFrom_flush_append hc rfl).append (flush_append_lt hc rfl) ?_
        ((pendingStart_le hc).trans (entryStart_lt_succ voff l i).le)
      obtain h | h := scanThen_events (child base (entryStart voff l i))
        (scanEntries child l si voff words (i + 1) none) <;> rw [h]
      · rw [hbelow]
        exact ascendFrom_nil _
      · rw [ofLevel_append, hbelow]
        exact hrest

/-! ### A DIR record and the child's events after it -/

/-- Each DIR record of level `l` is followed at once by the events of its child table. -/
def FollowedByChild (child : Nat → Nat → Scan) (l : Level) (evs : List Event) : Prop :=
  ∀ i vs base pre post, evs = pre ++ .dir l i vs base :: post → (child base vs).events <+: post

section
variable {child : Nat → Nat → Scan} {l : Level}

theorem followedByChild_nil : FollowedByChild child l [] := fun _ _ _ pre _ h => by
  cases pre <;> cases h

theorem FollowedByChild.append {evs evs' : List Event} (h' : FollowedByChild child l evs')
    (h : ∀ ev ∈ evs, isDir ev = false ∨ eventLevel ev ≠ l) : FollowedByChild child l (evs ++ evs') := by
  intro i vs base pre post heq
  obtain ⟨mid, -, hrest⟩ | ⟨mid, hevs, hrest⟩ := List.append_eq_append_iff.1 heq
  · exact h' i vs base mid post hrest
  · cases mid with
    | nil => exact h' i vs base [] post hrest.symm
    | cons ev mid =>
      obtain ⟨rfl, -⟩ := List.cons.inj hrest
      have hdir := h (.dir l i vs base) (by simp [hevs])
      simp [isDir, eventLevel] at hdir

theorem followedByChild_of_forall {evs : List Event} (h : ∀ ev ∈ evs, isDir ev = false ∨ eventLevel ev ≠ l) :
    FollowedByChild child l evs := by
  rw [← List.append_nil evs]
  exact followedByChild_nil.append h

theorem FollowedByChild.cons_dir {evs : List Event} {i vs base : Nat} (h : FollowedByChild child l evs)
    (hhere : (child base vs).events <+: evs) : FollowedByChild child l (.dir l i vs base :: evs) := by
  intro i' vs' base' pre post heq
  cases pre with
  | nil =>
    cases heq
    exact hhere
  | cons ev pre =>
    obtain ⟨-, hrest⟩ := List.cons.inj heq
    exact h i' vs' base' pre post hrest

theorem scanEntries_followedByChild (si : Bool) (voff : Nat) (hchild : ChildBelow l child) (words : List Word) (i : Nat)
    (c : Option Region) : FollowedByChild child l (scanEntries child l si voff words i c).events := by
  have hflush (c : Option Region) : ∀ ev ∈ regionEvents l c, isDir ev = false ∨ eventLevel ev ≠ l :=
    regionEvents_forall fun _ _ => .inl rfl
  induction words generalizing i c with
  | nil => exact followedByChild_of_forall (hflush c)
  | cons raw words ih =>
    obtain ⟨c', evs, hscan, heq⟩ | ⟨l', base, -, heq⟩ := scanEntries_cons_cases l si voff raw words i c <;>
      rw [heq, scanThen_scanEmits]
    case inl => exact (ih (i + 1) c').append fun ev hev => .inl (hscan.isDir_eq_false ev hev)
    case inr =>
      have hbelow : ∀ ev ∈ (child base (entryStart voff l i)).events, isDir ev = false ∨ eventLevel ev ≠ l :=
        fun ev hev => .inr (hchild base _ ev hev)
      rw [List.append_assoc, List.singleton_append]
      refine FollowedByChild.append ?_ (hflush c)
      obtain h | h := scanThen_events (child base (entryStart voff l i))
        (scanEntries child l si voff words (i + 1) none) <;> rw [h]
      · exact (followedByChild_of_forall hbelow).cons_dir List.prefix_rfl
      · exact ((ih (i + 1) none).append hbelow).cons_dir (List.prefix_append ..)

end

/-- Settles O33: both clauses hold of the loop over the scanned table, whose children are of levels below. -/
theorem dumpEventsComeInOrder : Obligations.DumpEventsComeInOrder := by
  intro mem l si base voff
  have hchild := childBelow_dumpTable mem si l
  have hcases := dumpTable_events_cases mem si l (l.next?.elim [] levelsFrom) base.toNat voff.toNat
  rw [← levelsFrom_eq] at hcases
  unfold dumpWhole
  refine ⟨?ascending, fun l' i vs base' pre post hl hevents => ?followed⟩
  case ascending =>
    obtain h | ⟨words, h⟩ := hcases <;> rw [h]
    · exact List.Pairwise.nil
    · obtain ⟨hascend, -⟩ := scanEntries_ascend si voff.toNat hchild words 0 none nofun
      exact hascend
  case followed =>
    obtain h | ⟨words, h⟩ := hcases <;> rw [h] at hevents
    · exact absurd hevents (by simp)
    · have hfollowed := scanEntries_followedByChild si voff.toNat hchild words 0 none i vs base' pre post hevents
      rw [hl] at hfollowed
      exact hfollowed

end Sys2Proof.Machine
end
